-- ==== Sys2Proof/Word.lean ====
section
/-! DEFINITION. The word types of the block and their plainest arithmetic (00_scope.md R7, R9, R16). -/

namespace Sys2Proof

/-- A host register, a command word, a pointer or a bus datum: 32 bits (R7). -/
abbrev Word := BitVec 32

/-- A symbol, or one byte of a buffer (R7). -/
abbrev Byte := BitVec 8

/-- An occurrence count or a node weight: `W = 8` bytes, unsigned (R7). -/
abbrev Count := BitVec 64

/-- An index into the 511-node tree arena, 0 to 510 (R7, R56). DEDUCED (log 10): the 9-bit value 511 is excluded. -/
abbrev NodeIx := Fin 511

/-- Every symbol, in ascending order: the loop `for s in 0 .. 255` of the pseudocode. -/
def allSymbols : List Byte := (List.range 256).map (BitVec.ofNat 8)

end Sys2Proof
end

