-- ==== Sys2Proof/Syntax.lean ====
section
/-! DEFINITION. The eleven commands of the opcode map (30_encoding.md R101), the block's instructions. Every operand of a
command is implicit state (R105); the flush modifier `Z` is the only field beside the opcode, and only ENCODE and COMPRESS
have it (R104). -/

namespace Sys2Proof

/-- One constructor per row of the opcode table. The argument of `encode` and `compress` is the bit `Z` (`true` is the
spelling ENCODE.Z, COMPRESS.Z). -/
inductive Instr where
  | nop
  | clear
  | count
  | build
  | codegen
  | wrhdr
  | encode (z : Bool)
  | rdhdr
  | decode
  | compress (z : Bool)
  | decompress
  deriving DecidableEq, Repr

end Sys2Proof
end

