-- ==== Sys2Proof/WellFormed.lean ====
section
/-! DEFINITION. Which command words are legal (30_encoding.md R100 to R104), as three checks on the word that do not go
through the decoder, and the well-formedness of an instruction. -/

namespace Sys2Proof

/-- The opcodes of R101. -/
def opcodes : List Byte := [0x00, 0x01, 0x02, 0x03, 0x04, 0x05, 0x06, 0x07, 0x08, 0x10, 0x11]

/-- Bits 31:9 of a command word are required to be 0 (R100). -/
def reservedBitsZero (w : Word) : Bool := w.extractLsb' 9 23 == 0

/-- Bits 7:0 are one of the eleven opcodes (R101, R103). -/
def opcodeKnown (w : Word) : Bool := opcodes.contains (w.extractLsb' 0 8)

/-- Bit 8 is 0 unless the opcode is 0x06 or 0x10 (R102). -/
def modifierAllowed (w : Word) : Bool :=
  !w.getLsbD 8 || w.extractLsb' 0 8 == 0x06#8 || w.extractLsb' 0 8 == 0x10#8

/-- A command word is legal exactly when the three checks hold (R102). -/
def legalWord (w : Word) : Bool := reservedBitsZero w && opcodeKnown w && modifierAllowed w

/-- Well-formedness of an instruction. The constructors of `Instr` leave nothing to check: R102's restriction of `Z` is in
their types, so that an ill-formed command exists only as a word, which `legalWord` refuses. -/
def Instr.wellFormed : Instr → Bool
  | .nop => true
  | .clear => true
  | .count => true
  | .build => true
  | .codegen => true
  | .wrhdr => true
  | .encode _ => true
  | .rdhdr => true
  | .decode => true
  | .compress _ => true
  | .decompress => true

end Sys2Proof
end

