-- ==== Sys2Proof/Decode.lean ====
section
/-! DEFINITION. The decoder of command words (30_encoding.md R100 to R104) and, after it, the encoder. The block fetches no
instructions (R91): a command is the 32-bit word a host writes to CMD, so the decoder takes that word. -/

namespace Sys2Proof

/-- Why a word is no command (R102, R103, I7). Each becomes CommandError(CMD_ILLEGAL, word) at acceptance. -/
inductive DecodeError where
  /-- One of bits 31:9 is set. -/
  | reservedBits
  /-- Bits 7:0 are no opcode of R101. -/
  | unknownOpcode
  /-- Bit 8 is set and the opcode takes no modifier. -/
  | modifierNotAllowed
  deriving DecidableEq, Repr

/-- A command without the modifier: refused when bit 8 is set (R102). -/
def withoutModifier (z : Bool) (i : Instr) : Except DecodeError Instr :=
  if z then .error .modifierNotAllowed else .ok i

/-- The opcode map (R101). -/
def decodeFields (z : Bool) (op : Byte) : Except DecodeError Instr :=
  match op with
  | 0x00#8 => withoutModifier z .nop
  | 0x01#8 => withoutModifier z .clear
  | 0x02#8 => withoutModifier z .count
  | 0x03#8 => withoutModifier z .build
  | 0x04#8 => withoutModifier z .codegen
  | 0x05#8 => withoutModifier z .wrhdr
  | 0x06#8 => .ok (.encode z)
  | 0x07#8 => withoutModifier z .rdhdr
  | 0x08#8 => withoutModifier z .decode
  | 0x10#8 => .ok (.compress z)
  | 0x11#8 => withoutModifier z .decompress
  | _ => .error .unknownOpcode

/-- The decoder: total on every 32-bit word (R102). -/
def decode (w : Word) : Except DecodeError Instr :=
  if w.extractLsb' 9 23 = 0 then decodeFields (w.getLsbD 8) (w.extractLsb' 0 8) else .error .reservedBits

/-- The command word `zext_32({Z, OP})` (R101). -/
def commandWord (z : Bool) (op : Byte) : Word := (0#23 ++ BitVec.ofBool z ++ op).setWidth 32

/-- The encoder: the word of each command (R101, R104). -/
def encode : Instr → Word
  | .nop => commandWord false 0x00
  | .clear => commandWord false 0x01
  | .count => commandWord false 0x02
  | .build => commandWord false 0x03
  | .codegen => commandWord false 0x04
  | .wrhdr => commandWord false 0x05
  | .encode z => commandWord z 0x06
  | .rdhdr => commandWord false 0x07
  | .decode => commandWord false 0x08
  | .compress z => commandWord z 0x10
  | .decompress => commandWord false 0x11

/-- The instruction the decoder reads from a table row's word: `nbits` bits of `w`, the bits above them zero. -/
def decodeTableWord (nbits w : Nat) : Option Instr := (decode (BitVec.ofNat 32 (w % 2 ^ nbits))).toOption

theorem decode_word_nop : decode 0x00000000#32 = .ok .nop := by decide
theorem decode_word_clear : decode 0x00000001#32 = .ok .clear := by decide
theorem decode_word_count : decode 0x00000002#32 = .ok .count := by decide
theorem decode_word_build : decode 0x00000003#32 = .ok .build := by decide
theorem decode_word_codegen : decode 0x00000004#32 = .ok .codegen := by decide
theorem decode_word_wrhdr : decode 0x00000005#32 = .ok .wrhdr := by decide
theorem decode_word_encode : decode 0x00000006#32 = .ok (.encode false) := by decide
theorem decode_word_encode_z : decode 0x00000106#32 = .ok (.encode true) := by decide
theorem decode_word_rdhdr : decode 0x00000007#32 = .ok .rdhdr := by decide
theorem decode_word_decode : decode 0x00000008#32 = .ok .decode := by decide
theorem decode_word_compress : decode 0x00000010#32 = .ok (.compress false) := by decide
theorem decode_word_compress_z : decode 0x00000110#32 = .ok (.compress true) := by decide
theorem decode_word_decompress : decode 0x00000011#32 = .ok .decompress := by decide

end Sys2Proof
end

