-- ==== Sys2Proof/Config.lean ====
section
/-! DEFINITION. What an implementation fixes (the two buffer sizes, 00_scope.md R6) and the free values the spec leaves open
(93_implementation_defined.md I1, I2, I18). A free value is an opaque constant: nothing can be proved of its value. -/

namespace Sys2Proof

/-- The two parameters of R6: the byte sizes of the input and of the output buffer. -/
structure Config where
  ibufSize : Nat
  obufSize : Nat
  deriving DecidableEq, Repr

/-- `1 <= SIZE <= 2^30` for both buffers (R6). -/
def Config.legal (c : Config) : Bool :=
  decide (1 ≤ c.ibufSize ∧ c.ibufSize ≤ 2 ^ 30 ∧ 1 ≤ c.obufSize ∧ c.obufSize ≤ 2 ^ 30)

/-- DESIGN CHOICE (log 1): the size of the installed input buffer, less one; free. Every 30-bit value is a legal size. -/
opaque Config.ibufSizeLessOne : BitVec 30

/-- DESIGN CHOICE (log 1): the size of the installed output buffer, less one; free. -/
opaque Config.obufSizeLessOne : BitVec 30

/-- The parameters of the machine that `State.reset` describes: any legal pair of sizes (R6, I13). -/
def Config.installed : Config where
  ibufSize := Config.ibufSizeLessOne.toNat + 1
  obufSize := Config.obufSizeLessOne.toNat + 1

/-- The byte at offset `i` of IBUF after the reset numbered `epoch`, while nothing has been written there: a draw, fixed
until written (I1, log 2). -/
opaque Config.unwrittenIbuf (epoch i : Nat) : Byte

/-- The byte at offset `i` of OBUF after the reset numbered `epoch`, while nothing has been written there (I1, I6, log 2). -/
opaque Config.unwrittenObuf (epoch i : Nat) : Byte

/-- What the read numbered `n` returns when it is a read, while BUSY = 1, of state the running command may change
(R311, I2, log 7). -/
opaque Config.busyRead (n : Nat) : Word

/-- How many host steps may come between the acceptance numbered `n` and the completion step: any finite number
(R318, I18, log 5). -/
opaque Config.hostTurns (n : Nat) : Nat

end Sys2Proof
end

