-- ==== Sys2Proof/Machine/State.lean ====
section
/-! DEFINITION. The architectural state of the block (10_state.md R20 to R67, 20_memory.md R70, R71), the host's side of the
interface as far as the step needs it, and the state after reset. Registers that several names show (STATUS, CTRL, ERR, the
windows) are stored once, field by field, and read through the accessors of Machine/Flags.lean and Machine/Bus.lean. -/

namespace Sys2Proof.Machine

/-- Why a step stops with a fault. No run of the machine from reset raises one. -/
inductive Fault where
  /-- Raised by CODEGEN, and by COMPRESS through it, when the parent walk of R190 does not reach a node without a parent
  within 255 steps: the pseudocode would walk on for ever, or write a code longer than CODE_LEN holds (R192). It happens only
  for an arena that no BUILD makes (R57). Safe (log 11). -/
  | walkDoesNotEnd
  deriving DecidableEq, Repr

/-- Why an instruction is refused. -/
inductive Refusal where
  /-- Raised only by an arm of `exec` whose instruction has no meaning yet; no arm is of that kind. Safe. -/
  | notModelled (mnemonic : String)
  deriving DecidableEq, Repr

/-! ### Errors -/

/-- The four kinds of error (R15, R35). -/
inductive Kind where
  | invalidInputFile
  | invalidData
  | ioFault
  | commandError
  deriving DecidableEq, Repr

/-- The causes of R261; the row NONE is the absence of a cause. -/
inductive Cause where
  | iifNotOpen
  | iifRange
  | idEmptyTable
  | idBadMagic
  | idHdrEmpty
  | idHdrRange
  | idHdrDup
  | idHdrTrunc
  | idStreamTrunc
  | idWeightOvf
  | idNoCode
  | ioOutOvf
  | cmdIllegal
  | cmdNoTree
  | cmdNoCode
  deriving DecidableEq, Repr

/-! ### Parts of the state -/

/-- The position inside the running command's pseudocode (R25). A command runs as one atomic step between acceptance and
completion (DEDUCED, R318, log 4), so between steps it is always at its start (R264). -/
inductive Pos where
  | start
  deriving DecidableEq, Repr

/-- The sequencer (R25): IDLE, or RUN with the command word latched at acceptance. -/
inductive Seq where
  | idle
  | run (cmd : Word) (pos : Pos)
  deriving DecidableEq, Repr

/-- CTRL (R32). -/
structure Ctrl where
  inEn : Bool
  ieDone : Bool
  ieErr : Bool
  deriving DecidableEq, Repr

/-- One entry of the frequency table: FT_PRESENT[s] and FT_COUNT[s] (R55). -/
structure FtEntry where
  present : Bool
  count : Count
  deriving DecidableEq, Repr

/-- One node of the tree arena (R56). -/
structure Node where
  leaf : Bool
  sym : Byte
  w : Count
  left : NodeIx
  right : NodeIx
  hasp : Bool
  parent : NodeIx
  deriving DecidableEq, Repr

/-- The tree arena with ROOT and NODE_COUNT (R56). -/
structure Tree where
  nodes : Vector Node 511
  root : NodeIx
  count : Fin 512
  deriving DecidableEq, Repr

/-- One entry of the code table: CODE_HAS[s], CODE_LEN[s], CODE_BITS[s] (R59). -/
structure CodeEntry where
  has : Bool
  len : BitVec 8
  bits : BitVec 256
  deriving DecidableEq, Repr

/-- The decoder walk state CUR, BYTE, BITPOS, EMITTED, TOTAL (R63). -/
structure Walk where
  cur : NodeIx
  byte : Byte
  bitpos : Fin 8
  emitted : Count
  total : Count
  deriving DecidableEq, Repr

/-- A buffer's contents: the bytes written since reset, by offset, in ascending order of offset (R71, log 2). An offset that
is not listed has not been written since reset. -/
abbrev Memory := List Host.Cell

/-! ### The host -/

/-- The width of a host access: 8, 16 or 32 bits (R73, R74). -/
inductive Size where
  | byte
  | half
  | word
  deriving DecidableEq, Repr

/-- One operation of the host on the block (R70, R130, R131, R300). -/
inductive HostOp where
  /-- A bus read. -/
  | read (addr : Word) (size : Size)
  /-- A bus write; a narrow write carries its datum in the low bits. -/
  | write (addr : Word) (size : Size) (data : Word)
  /-- The loop `wait` of R131: read STATUS until the value read has BUSY = 0. -/
  | wait
  /-- Drive the reset input RST: `true` asserts it, `false` releases it (R300). -/
  | rst (level : Bool)
  deriving DecidableEq, Repr

/-- DESIGN CHOICE: the model's own fields (log 5, 6, 7, 14): the operations the host has not yet performed, in its issue order (R85); the value
its last read returned; the host steps that may still come before the running command's completion step (R318); the number
of free values drawn so far. -/
structure HostPort where
  pending : List HostOp
  readData : Option Word
  turns : Nat
  draws : Nat
  deriving DecidableEq, Repr

end Sys2Proof.Machine

namespace Sys2Proof.Machine

/-- The whole state (R20). Plain data. -/
structure State where
  /-- The parameters IBUF_SIZE and OBUF_SIZE (R6); no step changes them. -/
  cfg : Config
  /-- The level of the reset input RST (R300). -/
  rst : Bool
  /-- SEQ (R25). -/
  seq : Seq
  /-- STATUS.DONE (R30). -/
  done : Bool
  /-- STATUS.ERR (R30). -/
  err : Bool
  /-- STATUS.HERR (R30). -/
  herr : Bool
  /-- TREE_VALID (R58). -/
  treeValid : Bool
  /-- CODE_VALID (R60). -/
  codeValid : Bool
  /-- CTRL (R32). -/
  ctrl : Ctrl
  /-- The sample of CTRL.IN_EN taken when the last command started (R32, R87); its reset value is log 18. -/
  inEnSample : Bool
  /-- The register ERR (R35): CAUSE, and through it KIND; `none` is the value 0. DEDUCED (log 16). -/
  errCause : Option Cause
  /-- ERR_INFO (R36). -/
  errInfo : Word
  /-- IN_LEN (R26). -/
  inLen : Word
  /-- IN_PTR (R27). -/
  inPtr : Word
  /-- OUT_PTR (R28). -/
  outPtr : Word
  /-- FT_SEL.SYM (R45). -/
  ftSel : Byte
  /-- NODE_SEL.IDX (R49). -/
  nodeSel : BitVec 9
  /-- CODE_SEL.SYM (R51). -/
  codeSel : Byte
  /-- CODE_WSEL.WORD (R51). -/
  codeWsel : BitVec 3
  /-- FT_PRESENT[0..255] and FT_COUNT[0..255] (R55). -/
  ft : Vector FtEntry 256
  /-- NODE_*[0..510], ROOT, NODE_COUNT (R56). -/
  tree : Tree
  /-- CODE_HAS, CODE_LEN, CODE_BITS [0..255] (R59). -/
  codes : Vector CodeEntry 256
  /-- IBUF (R71). -/
  ibuf : Memory
  /-- OBUF (R71). -/
  obuf : Memory
  /-- ACC (R62). -/
  acc : Byte
  /-- NACC, 0 to 8 (R62). -/
  nacc : Fin 9
  /-- CUR, BYTE, BITPOS, EMITTED, TOTAL (R63). -/
  walk : Walk
  /-- The builder's merge sequence Q (R64). -/
  mergeQ : List NodeIx
  /-- The host's side of the interface; the model's own. -/
  host : HostPort
  /-- The number of resets so far, which indexes the draws of unwritten buffer bytes; the model's own (log 2). -/
  epoch : Nat
  deriving DecidableEq, Repr

/-- DESIGN CHOICE (log 3): an arena node at reset. The spec leaves every field of it unspecified (R56, I3). -/
def Node.blank : Node where
  leaf := false
  sym := 0
  w := 0
  left := 0
  right := 0
  hasp := false
  parent := 0

/-- An absent symbol with count 0 (R55). -/
def FtEntry.absent : FtEntry where
  present := false
  count := 0

/-- A symbol without a code (R190). DESIGN CHOICE (log 3) where it is the reset value of the code table (R59, I4). -/
def CodeEntry.empty : CodeEntry where
  has := false
  len := 0
  bits := 0

/-- The arena at reset: ROOT = 0 and NODE_COUNT = 0 (R56); the nodes by log 3. -/
def Tree.blank : Tree where
  nodes := Vector.replicate 511 Node.blank
  root := 0
  count := 0

/-- DESIGN CHOICE (log 3): the decoder walk state at reset, which the spec leaves unspecified (R63, I5). -/
def Walk.blank : Walk where
  cur := 0
  byte := 0
  bitpos := 0
  emitted := 0
  total := 0

/-- The reset values of R67, for a machine with parameters `cfg`, the host's side `host` and `epoch` earlier resets. -/
def State.afterReset (cfg : Config) (host : HostPort) (epoch : Nat) : State where
  cfg := cfg
  rst := false
  seq := .idle
  done := false
  err := false
  herr := false
  treeValid := false
  codeValid := false
  ctrl := { inEn := false, ieDone := false, ieErr := false }
  inEnSample := false
  errCause := none
  errInfo := 0
  inLen := 0
  inPtr := 0
  outPtr := 0
  ftSel := 0
  nodeSel := 0
  codeSel := 0
  codeWsel := 0
  ft := Vector.replicate 256 FtEntry.absent
  tree := Tree.blank
  codes := Vector.replicate 256 CodeEntry.empty
  ibuf := []
  obuf := []
  acc := 0
  nacc := 0
  walk := Walk.blank
  mergeQ := []
  host := host
  epoch := epoch

/-- The machine right after reset (R67, R300, R303), with no host operation issued yet (log 6). -/
def State.reset : State :=
  State.afterReset Config.installed { pending := [], readData := none, turns := 0, draws := 0 } 0

end Sys2Proof.Machine
end

