-- ==== Sys2Proof/Machine/Flags.lean ====
section
/-! DEFINITION. The status, control, error and interrupt flags: the register views of the bits State holds, and the writes
that change them (10_state.md R30 to R36, R58, R60; 60_exceptions.md R261, R271). -/

namespace Sys2Proof.Machine

/-- The word whose bit `i` is `b` and whose other bits are 0. -/
def bitAt (b : Bool) (i : Nat) : Word := if b then 1#32 <<< i else 0#32

/-- STATUS.BUSY: 1 exactly when SEQ is RUN (R25, R30). DEDUCED (log 15): computed. -/
def State.busy (s : State) : Bool :=
  match s.seq with
  | .idle => false
  | .run _ _ => true

/-- The interrupt output, also STATUS.IRQ (R33). DEDUCED (log 15): computed. HERR does not drive it. -/
def State.irq (s : State) : Bool := (s.done && s.ctrl.ieDone) || (s.err && s.ctrl.ieErr)

/-- The register STATUS as the host reads it (R30). -/
def State.statusWord (s : State) : Word :=
  bitAt s.busy 0 ||| bitAt s.done 1 ||| bitAt s.err 2 ||| bitAt s.herr 3 ||| bitAt s.treeValid 4 |||
    bitAt s.codeValid 5 ||| bitAt s.irq 6

/-- A host write to STATUS: DONE, ERR and HERR are cleared where the datum has a 1; every other bit is read-only or
reserved (R30). -/
def State.writeStatus (s : State) (w : Word) : State :=
  { s with
    done := s.done && !w.getLsbD 1
    err := s.err && !w.getLsbD 2
    herr := s.herr && !w.getLsbD 3 }

/-- The register CTRL as the host reads it (R32). -/
def State.ctrlWord (s : State) : Word :=
  bitAt s.ctrl.inEn 0 ||| bitAt s.ctrl.ieDone 1 ||| bitAt s.ctrl.ieErr 2

/-- A host write to CTRL; bits 31:3 are ignored (R32). -/
def State.writeCtrl (s : State) (w : Word) : State :=
  { s with ctrl := { inEn := w.getLsbD 0, ieDone := w.getLsbD 1, ieErr := w.getLsbD 2 } }

/-- ERR.KIND (R35). -/
def Kind.code : Kind → BitVec 3
  | .invalidInputFile => 1
  | .invalidData => 2
  | .ioFault => 3
  | .commandError => 4

/-- ERR.CAUSE (R261). -/
def Cause.code : Cause → Byte
  | .iifNotOpen => 0x01
  | .iifRange => 0x02
  | .idEmptyTable => 0x10
  | .idBadMagic => 0x11
  | .idHdrEmpty => 0x12
  | .idHdrRange => 0x13
  | .idHdrDup => 0x14
  | .idHdrTrunc => 0x15
  | .idStreamTrunc => 0x16
  | .idWeightOvf => 0x17
  | .idNoCode => 0x18
  | .ioOutOvf => 0x20
  | .cmdIllegal => 0x30
  | .cmdNoTree => 0x31
  | .cmdNoCode => 0x32

/-- The kind of each cause (R261). -/
def Cause.kind : Cause → Kind
  | .iifNotOpen => .invalidInputFile
  | .iifRange => .invalidInputFile
  | .idEmptyTable => .invalidData
  | .idBadMagic => .invalidData
  | .idHdrEmpty => .invalidData
  | .idHdrRange => .invalidData
  | .idHdrDup => .invalidData
  | .idHdrTrunc => .invalidData
  | .idStreamTrunc => .invalidData
  | .idWeightOvf => .invalidData
  | .idNoCode => .invalidData
  | .ioOutOvf => .ioFault
  | .cmdIllegal => .commandError
  | .cmdNoTree => .commandError
  | .cmdNoCode => .commandError

/-- The register ERR as the host reads it: KIND in bits 10:8, CAUSE in bits 7:0, and 0 when no error is recorded (R35). -/
def State.errWord (s : State) : Word :=
  match s.errCause with
  | none => 0#32
  | some c => (0#21 ++ c.kind.code ++ c.code).setWidth 32

/-- A cleared TREE_VALID also clears CODE_VALID (R58). -/
def State.invalidateTree (s : State) : State := { s with treeValid := false, codeValid := false }

/-- Clear CODE_VALID alone: CODEGEN at its start (R60). -/
def State.invalidateCodes (s : State) : State := { s with codeValid := false }

/-- A host-access error: STATUS.HERR <- 1 and nothing else (R73, R260). -/
def State.hostError (s : State) : State := { s with herr := true }

end Sys2Proof.Machine
end

