-- ==== Sys2Proof/Machine/Ops.lean ====
section
/-! DEFINITION. The named operations over the buffers and the tables, and the three events of a command: acceptance (R264),
`raise` (R265, the block's trap entry) and `finish` (R268, the successful completion). Every command error is taken through
the one `State.raise`; the block has no return-from-trap operation (R269). -/

namespace Sys2Proof.Machine

/-! ### Buffers (20_memory.md R71, 93_implementation_defined.md I1) -/

/-- The byte written at offset `i` since reset, if there is one. -/
def Memory.get? : Memory → Nat → Option Byte
  | [], _ => none
  | (a, b) :: m, i => if i = a then some b else Memory.get? m i

/-- Write the byte `v` at offset `i`, keeping the offsets in ascending order. -/
def Memory.put : Memory → Nat → Byte → Memory
  | [], i, v => [(i, v)]
  | (a, b) :: m, i, v =>
    if i < a then (i, v) :: (a, b) :: m else if i = a then (i, v) :: m else (a, b) :: Memory.put m i v

/-- The canonical form: offsets strictly rising. An unlisted offset holds no written byte, and every entry does, so no entry
equals what an unlisted offset reads as, and equal contents are equal lists (log 2). -/
abbrev Memory.wf (m : Memory) : Prop := m.Pairwise (fun x y => x.1 < y.1)

/-- `IBUF[i]`: the byte written there, or the draw of the current reset (R71, I1). -/
def State.ibufAt (s : State) (i : Nat) : Byte := (s.ibuf.get? i).getD (Config.unwrittenIbuf s.epoch i)

/-- `OBUF[i]`, likewise (R71, I1, I6). -/
def State.obufAt (s : State) (i : Nat) : Byte := (s.obuf.get? i).getD (Config.unwrittenObuf s.epoch i)

/-- `OBUF[i] <- v`. -/
def State.putObuf (s : State) (i : Nat) (v : Byte) : State := { s with obuf := s.obuf.put i v }

/-- `IBUF[i] <- v`; only the host writes IBUF (R71). -/
def State.putIbuf (s : State) (i : Nat) (v : Byte) : State := { s with ibuf := s.ibuf.put i v }

/-! ### Tables (10_state.md R55, R56, R59) -/

theorem byte_toNat_lt (b : Byte) : b.toNat < 256 := b.isLt

/-- `FT_PRESENT[sym]` and `FT_COUNT[sym]` (R55). -/
def State.ftAt (s : State) (sym : Byte) : FtEntry := s.ft[sym.toNat]'(byte_toNat_lt sym)

/-- Write one entry of the frequency table. -/
def State.putFt (s : State) (sym : Byte) (e : FtEntry) : State :=
  { s with ft := s.ft.set sym.toNat e (byte_toNat_lt sym) }

/-- FT_NSYM, the number `n` of present symbols (R48). -/
def State.nsym (s : State) : Nat := s.ft.toList.countP (fun e => e.present)

/-- The exact sum of the counts of the present symbols (R13 total; R181, R220). -/
def State.ftTotal (s : State) : Nat :=
  ((s.ft.toList.filter (fun e => e.present)).map (fun e => e.count.toNat)).sum

/-- Empty the frequency table and invalidate tree and codes: `clear_ft()` (R141). -/
def State.clearFt (s : State) : State :=
  { s with ft := Vector.replicate 256 FtEntry.absent, treeValid := false, codeValid := false }

/-- An arena index from a number; every use is of a number below 511 (R7). -/
def nodeIx (k : Nat) : NodeIx := Fin.ofNat 511 k

/-- The nodes of the arena. -/
abbrev Nodes := Vector Node 511

/-- `NODE_*[i]` (R56). -/
def nodeAt (a : Nodes) (i : NodeIx) : Node := a[i.val]'(i.isLt)

/-- Write node `i` of the arena. -/
def putNode (a : Nodes) (i : NodeIx) (x : Node) : Nodes := a.set i.val x (i.isLt)

/-- `CODE_HAS[sym]`, `CODE_LEN[sym]`, `CODE_BITS[sym]` (R59). -/
def codeAt (codes : Vector CodeEntry 256) (sym : Byte) : CodeEntry := codes[sym.toNat]'(byte_toNat_lt sym)

/-- Write one entry of the code table. -/
def putCode (c : Vector CodeEntry 256) (sym : Byte) (e : CodeEntry) : Vector CodeEntry 256 :=
  c.set sym.toNat e (byte_toNat_lt sym)

/-- `v` with bit `i` set to `b` (R9). -/
def writeBit {n : Nat} (v : BitVec n) (i : Nat) (b : Bool) : BitVec n :=
  if b then v ||| BitVec.twoPow n i else v &&& ~~~BitVec.twoPow n i

/-! ### Errors and completion (60_exceptions.md R264 to R269) -/

/-- An error on its way to completion: its cause, its information word, and the state the pseudocode has reached at the
raising line (R265, R266). -/
structure Raise where
  cause : Cause
  info : Word
  state : State

/-- A piece of a command's pseudocode: it goes on with a value, or raises. -/
abbrev Run := Except Raise

/-- `raise Kind(CAUSE, info)`: the one operation that takes an error (R265). The kind is the cause's (R261). DONE stays as it
is, 0 since acceptance; IRQ follows by R33. -/
def State.raise (s : State) (c : Cause) (info : Word) : State :=
  { s with seq := .idle, err := true, errCause := some c, errInfo := info, host := { s.host with turns := 0 } }

/-- `finish`: successful completion (R268). -/
def State.finish (s : State) : State :=
  { s with seq := .idle, done := true, host := { s.host with turns := 0 } }

/-- The completion step of a command whose pseudocode has run to its end or to a `raise` (R240, R265, R268). -/
def settle : Run State → State
  | .ok s => s.finish
  | .error r => r.state.raise r.cause r.info

/-- Why a piece of pseudocode that walks the arena does not go on: an error, or a fault of the model (log 11). -/
inductive Stop where
  | raised (r : Raise)
  | stuck (f : Fault)

/-- A piece of pseudocode that cannot get stuck, inside one that can. -/
def liftRun {α : Type} : Run α → Except Stop α
  | .ok a => .ok a
  | .error r => .error (.raised r)

/-- The completion step of a command that walks the arena. -/
def settleStop : Except Stop State → Host.Outcome State Fault Refusal
  | .ok s => .next s.finish
  | .error (.raised r) => .next (r.state.raise r.cause r.info)
  | .error (.stuck f) => .fault f

/-- The first effects of acceptance: SEQ <- RUN(w, start), and DONE, ERR, the error record cleared (R264). The number of host
steps that may come before the completion step is drawn here (R318, log 5). -/
def State.latch (s : State) (w : Word) : State :=
  { s with
    seq := .run w .start
    done := false
    err := false
    errCause := none
    errInfo := 0
    host := { s.host with turns := Config.hostTurns s.host.draws, draws := s.host.draws + 1 } }

/-- A command starts: it takes IN_EN as it stands now, whatever the host writes to CTRL while the command runs (R32, R87). -/
def State.sampleInEn (s : State) : State := { s with inEnSample := s.ctrl.inEn }

/-- Command acceptance, one event with the host's write of `w` to CMD while BUSY = 0: latch the word, then start the command,
or raise CMD_ILLEGAL at once if it is none (R102, R264). -/
def State.accept (s : State) (w : Word) : State :=
  match decode w with
  | .ok _ => (s.latch w).sampleInEn
  | .error _ => (s.latch w).raise .cmdIllegal w

end Sys2Proof.Machine
end

