-- ==== Sys2Proof/Machine/Operands.lean ====
section
/-! DEFINITION. The implicit operands of the commands: the input and output streams (20_memory.md R75 to R78) and the start
check of every command that reads the input (60_exceptions.md R263). -/

namespace Sys2Proof.Machine

/-- `fetch()`: the next input byte; IN_PTR advances by 1 (R75). The caller has checked that one is left. -/
def State.fetch (s : State) : Byte × State := (s.ibufAt s.inPtr.toNat, { s with inPtr := s.inPtr + 1 })

/-- How many input bytes are left: IN_LEN - IN_PTR, and 0 at or past the end of the stream (R26). -/
def State.inputLeft (s : State) : Nat := s.inLen.toNat - s.inPtr.toNat

/-- `need(k, info)`: raise ID_HDR_TRUNC when fewer than `k` input bytes are left (R76). -/
def State.need (s : State) (k : Nat) (info : Word) : Run Unit :=
  if s.inLen.toNat < s.inPtr.toNat + k then .error ⟨.idHdrTrunc, info, s⟩ else .ok ()

/-- `k` successive fetches. -/
def State.fetchMany : Nat → State → List Byte × State
  | 0, s => ([], s)
  | k + 1, s =>
    let (b, s) := s.fetch
    let (bs, s) := State.fetchMany k s
    (b :: bs, s)

/-- The unsigned number whose bytes are `bs`, least significant first (R10, R78). -/
def leNat : List Byte → Nat
  | [] => 0
  | b :: bs => b.toNat + 256 * leNat bs

/-- `read_le(8)`: an 8-byte little-endian field (R76, R78). -/
def State.readLe8 (s : State) : Count × State :=
  let (bs, s) := State.fetchMany 8 s
  (BitVec.ofNat 64 (leNat bs), s)

/-- `emit(v)`: append one byte to the output stream, or raise IO_OUT_OVF and write nothing (R77). -/
def State.emit (s : State) (v : Byte) : Run State :=
  if s.cfg.obufSize ≤ s.outPtr.toNat then .error ⟨.ioOutOvf, s.outPtr, s⟩
  else .ok { s.putObuf s.outPtr.toNat v with outPtr := s.outPtr + 1 }

/-- Emit bytes in order; those before a failing one stay (R77, R265). -/
def State.emitMany : List Byte → State → Run State
  | [], s => .ok s
  | b :: bs, s => do
    let s ← s.emit b
    State.emitMany bs s

/-- The bytes of an 8-byte field, least significant first (R78). -/
def leBytes8 (v : Count) : List Byte := (List.range 8).map (fun j => v.extractLsb' (8 * j) 8)

/-- `write_le(8, v)` (R77). -/
def State.writeLe8 (s : State) (v : Count) : Run State := State.emitMany (leBytes8 v) s

/-- `input_checks()` (R263): the hardware form of opening the input. It changes no state, and reads IN_EN as sampled when the
command started (R32, R87). -/
def State.inputChecks (s : State) : Run Unit :=
  if s.inEnSample = false then .error ⟨.iifNotOpen, 0, s⟩
  else if s.cfg.ibufSize < s.inLen.toNat ∨ s.inLen.toNat < s.inPtr.toNat then .error ⟨.iifRange, s.inLen, s⟩
  else .ok ()

end Sys2Proof.Machine
end

