-- ==== Sys2Proof/Machine/Bus.lean ====
section
/-! DEFINITION. Host accesses: the register map and the table windows (10_state.md R26 to R53, 30_encoding.md R110), the bus
address space (20_memory.md R70 to R74), what is refused and what is unspecified while BUSY = 1 (70_reset_and_hazards.md R310,
R311), the reset input (R300), and the host-program notation (30_encoding.md R130, R131). -/

namespace Sys2Proof.Machine

/-! ### The register map -/

/-- The host registers (R53). -/
inductive Reg where
  | cmd
  | status
  | ctrl
  | err
  | errInfo
  | inLen
  | inPtr
  | outPtr
  | ftSel
  | ftPresent
  | ftCntLo
  | ftCntHi
  | ftNsym
  | nodeSel
  | nodeInfo
  | nodeLinks
  | nodeWLo
  | nodeWHi
  | treeInfo
  | codeSel
  | codeInfo
  | codeWsel
  | codeWord
  deriving DecidableEq, Repr

/-- The byte offset of each register (R53, R110). -/
def Reg.offset : Reg → Nat
  | .cmd => 0x00
  | .status => 0x04
  | .ctrl => 0x08
  | .err => 0x0C
  | .errInfo => 0x10
  | .inLen => 0x14
  | .inPtr => 0x18
  | .outPtr => 0x1C
  | .ftSel => 0x20
  | .ftPresent => 0x24
  | .ftCntLo => 0x28
  | .ftCntHi => 0x2C
  | .ftNsym => 0x30
  | .nodeSel => 0x40
  | .nodeInfo => 0x44
  | .nodeLinks => 0x48
  | .nodeWLo => 0x4C
  | .nodeWHi => 0x50
  | .treeInfo => 0x54
  | .codeSel => 0x60
  | .codeInfo => 0x64
  | .codeWsel => 0x68
  | .codeWord => 0x6C

/-- Every register, in order of offset. -/
def allRegs : List Reg :=
  [.cmd, .status, .ctrl, .err, .errInfo, .inLen, .inPtr, .outPtr, .ftSel, .ftPresent, .ftCntLo, .ftCntHi, .ftNsym,
    .nodeSel, .nodeInfo, .nodeLinks, .nodeWLo, .nodeWHi, .treeInfo, .codeSel, .codeInfo, .codeWsel, .codeWord]

/-- The register at an offset; every other offset is reserved (R53, R73). -/
def regAt (offset : Nat) : Option Reg := allRegs.find? (fun r => r.offset == offset)

/-- A field of a register value, its lowest bit at `lo`. -/
def fieldAt {n : Nat} (v : BitVec n) (lo : Nat) : Word := v.setWidth 32 <<< lo

/-- The condition `ok` of the node windows: TREE_VALID and NODE_SEL.IDX < NODE_COUNT (R50). -/
def State.nodeOk (s : State) : Bool := s.treeValid && decide (s.nodeSel.toNat < s.tree.count.val)

/-- The node NODE_SEL selects (R49). -/
def State.selectedNode (s : State) : Node := nodeAt s.tree.nodes (nodeIx s.nodeSel.toNat)

/-- NODE_INFO (R50). -/
def State.nodeInfoWord (s : State) : Word :=
  if s.nodeOk then
    let x := s.selectedNode
    bitAt true 0 ||| bitAt x.leaf 1 ||| bitAt x.hasp 2 ||| (if x.leaf then fieldAt x.sym 8 else 0#32) |||
      (if x.hasp then fieldAt (BitVec.ofNat 9 x.parent.val) 16 else 0#32)
  else 0#32

/-- NODE_LINKS (R50): both links read 0 for a leaf. -/
def State.nodeLinksWord (s : State) : Word :=
  if s.nodeOk && !s.selectedNode.leaf then
    fieldAt (BitVec.ofNat 9 s.selectedNode.left.val) 0 ||| fieldAt (BitVec.ofNat 9 s.selectedNode.right.val) 16
  else 0#32

/-- TREE_INFO (R50). -/
def State.treeInfoWord (s : State) : Word :=
  if s.treeValid then
    fieldAt (BitVec.ofNat 9 s.tree.root.val) 0 ||| fieldAt (BitVec.ofNat 10 s.tree.count.val) 16
  else 0#32

/-- CODE_INFO (R52). -/
def State.codeInfoWord (s : State) : Word :=
  if s.codeValid then bitAt (codeAt s.codes s.codeSel).has 0 ||| fieldAt (codeAt s.codes s.codeSel).len 8 else 0#32

/-- CODE_WORD (R52). -/
def State.codeWordWord (s : State) : Word :=
  if s.codeValid then (codeAt s.codes s.codeSel).bits.extractLsb' (32 * s.codeWsel.toNat) 32 else 0#32

/-- The value of a register while BUSY = 0 (R26 to R52). -/
def State.readReg (s : State) : Reg → Word
  | .cmd => 0#32
  | .status => s.statusWord
  | .ctrl => s.ctrlWord
  | .err => s.errWord
  | .errInfo => s.errInfo
  | .inLen => s.inLen
  | .inPtr => s.inPtr
  | .outPtr => s.outPtr
  | .ftSel => fieldAt s.ftSel 0
  | .ftPresent => bitAt (s.ftAt s.ftSel).present 0
  | .ftCntLo => (s.ftAt s.ftSel).count.extractLsb' 0 32
  | .ftCntHi => (s.ftAt s.ftSel).count.extractLsb' 32 32
  | .ftNsym => BitVec.ofNat 32 s.nsym
  | .nodeSel => fieldAt s.nodeSel 0
  | .nodeInfo => s.nodeInfoWord
  | .nodeLinks => s.nodeLinksWord
  | .nodeWLo => if s.nodeOk then s.selectedNode.w.extractLsb' 0 32 else 0#32
  | .nodeWHi => if s.nodeOk then s.selectedNode.w.extractLsb' 32 32 else 0#32
  | .treeInfo => s.treeInfoWord
  | .codeSel => fieldAt s.codeSel 0
  | .codeInfo => s.codeInfoWord
  | .codeWsel => fieldAt s.codeWsel 0
  | .codeWord => s.codeWordWord

/-- A host write through the FT window: the entry FT_SEL selects changes, TREE_VALID and CODE_VALID are cleared (R46, R47,
R312). -/
def State.writeFtWindow (s : State) (e : FtEntry) : State := (s.putFt s.ftSel e).invalidateTree

/-- A write that is refused while BUSY = 1: ignored, HERR <- 1 (R310). -/
def State.unlessBusy (s s' : State) : State := if s.busy then s.hostError else s'

/-- A host write of a register (R26 to R53, R310). A write to a read-only register is ignored and sets HERR (R53). -/
def State.writeReg (s : State) (w : Word) : Reg → State
  | .cmd => s.unlessBusy (s.accept w)
  | .status => s.writeStatus w
  | .ctrl => s.writeCtrl w
  | .err => s.hostError
  | .errInfo => s.hostError
  | .inLen => s.unlessBusy { s with inLen := w }
  | .inPtr => s.unlessBusy { s with inPtr := w }
  | .outPtr => s.unlessBusy { s with outPtr := w }
  | .ftSel => s.unlessBusy { s with ftSel := w.extractLsb' 0 8 }
  | .ftPresent => s.unlessBusy (s.writeFtWindow { s.ftAt s.ftSel with present := w.getLsbD 0 })
  | .ftCntLo =>
    s.unlessBusy (s.writeFtWindow
      { s.ftAt s.ftSel with count := (s.ftAt s.ftSel).count.extractLsb' 32 32 ++ w })
  | .ftCntHi =>
    s.unlessBusy (s.writeFtWindow
      { s.ftAt s.ftSel with count := w ++ (s.ftAt s.ftSel).count.extractLsb' 0 32 })
  | .ftNsym => s.hostError
  | .nodeSel => s.unlessBusy { s with nodeSel := w.extractLsb' 0 9 }
  | .nodeInfo => s.hostError
  | .nodeLinks => s.hostError
  | .nodeWLo => s.hostError
  | .nodeWHi => s.hostError
  | .treeInfo => s.hostError
  | .codeSel => s.unlessBusy { s with codeSel := w.extractLsb' 0 8 }
  | .codeInfo => s.hostError
  | .codeWsel => s.unlessBusy { s with codeWsel := w.extractLsb' 0 3 }
  | .codeWord => s.hostError

/-! ### The bus -/

/-- The bytes of an access (R73, R74). -/
def Size.bytes : Size → Nat
  | .byte => 1
  | .half => 2
  | .word => 4

/-- The bits of a 32-bit datum that an access of this width carries. -/
def Size.mask : Size → Word
  | .byte => 0x000000FF
  | .half => 0x0000FFFF
  | .word => 0xFFFFFFFF

/-- The first address of the input buffer region (R70). -/
def ibufBase : Nat := 0x40000000

/-- The first address of the output buffer region (R70). -/
def obufBase : Nat := 0x80000000

/-- What a well-formed access reaches. -/
inductive Target where
  | reg (r : Reg)
  | ibuf (offset : Nat)
  | obuf (offset : Nat)
  deriving DecidableEq, Repr

/-- Whether an access of `size` at `offset` of a buffer of `total` bytes is naturally aligned and inside it (R74). -/
def bufferAccessOk (offset : Nat) (size : Size) (total : Nat) : Bool :=
  offset % size.bytes == 0 && decide (offset + size.bytes ≤ total)

/-- What an access reaches, or `none` when it is erroneous (R70, R73, R74). -/
def State.target (s : State) (addr : Word) (size : Size) : Option Target :=
  let a := addr.toNat
  if a < 0x100 then (if size = .word ∧ a % 4 = 0 then (regAt a).map .reg else none)
  else if ibufBase ≤ a ∧ a < obufBase then
    (if bufferAccessOk (a - ibufBase) size s.cfg.ibufSize then some (.ibuf (a - ibufBase)) else none)
  else if obufBase ≤ a then
    (if bufferAccessOk (a - obufBase) size s.cfg.obufSize then some (.obuf (a - obufBase)) else none)
  else none

/-- The little-endian value of `n` bytes from offset `i` on (R74, R79). -/
def loadLe (f : Nat → Byte) (i n : Nat) : Word := BitVec.ofNat 32 (leNat ((List.range n).map (fun j => f (i + j))))

/-- Store the `n` low bytes of `w` little-endian from offset `i` on (R74). -/
def storeLe (m : Memory) (i n : Nat) (w : Word) : Memory :=
  (List.range n).foldl (fun m j => m.put (i + j) (w.extractLsb' (8 * j) 8)) m

/-- The host's read returns `v`. -/
def State.answer (s : State) (v : Word) : State := { s with host := { s.host with readData := some v } }

/-- A read of state the running command may change returns a fresh draw of the access width (R311, I2, log 7). -/
def State.answerDraw (s : State) (size : Size) : State :=
  { s with
    host :=
      { s.host with readData := some (Config.busyRead s.host.draws &&& size.mask), draws := s.host.draws + 1 } }

/-- Whether a read of the register is exact while BUSY = 1: STATUS and CTRL only (R311). -/
def Reg.exactWhileBusy : Reg → Bool
  | .status => true
  | .ctrl => true
  | _ => false

/-- A host read (R73, R74, R311). DEDUCED (log 8): an erroneous one is so while BUSY = 1 too. It has no side effect but HERR when it is erroneous (R82). -/
def State.hostRead (s : State) (addr : Word) (size : Size) : State :=
  match s.target addr size with
  | none => s.hostError.answer 0
  | some (.reg r) => if s.busy && !r.exactWhileBusy then s.answerDraw size else s.answer (s.readReg r)
  | some (.ibuf i) => if s.busy then s.answerDraw size else s.answer (loadLe s.ibufAt i size.bytes)
  | some (.obuf i) => if s.busy then s.answerDraw size else s.answer (loadLe s.obufAt i size.bytes)

/-- A host write (R73, R74, R310). -/
def State.hostWrite (s : State) (addr : Word) (size : Size) (w : Word) : State :=
  match s.target addr size with
  | none => s.hostError
  | some (.reg r) => s.writeReg w r
  | some (.ibuf i) => s.unlessBusy { s with ibuf := storeLe s.ibuf i size.bytes w }
  | some (.obuf i) => s.unlessBusy { s with obuf := storeLe s.obuf i size.bytes w }

/-! ### The reset input and the host's turn -/

/-- Drive RST (R300). DEDUCED (log 9). Assertion puts everything at its reset value in one event, whatever runs (R301); the host's own side is
not reset, and the buffers hold new draws. Release leaves the block at its reset values. -/
def State.driveRst (s : State) (level : Bool) : State :=
  if level then { State.afterReset s.cfg { s.host with turns := 0 } (s.epoch + 1) with rst := true }
  else { s with rst := false }

/-- One turn of `wait`: read STATUS, and stay in front of the pending operations while the value read has BUSY = 1 (R131). -/
def State.waitTurn (s : State) : State :=
  let s' := s.hostRead 0x00000004 .word
  if s.busy then { s' with host := { s'.host with pending := .wait :: s'.host.pending } } else s'

/-- One host operation. While RST is asserted, writes have no effect and reads return 0 (R300, log 9). -/
def State.perform (s : State) : HostOp → State
  | .rst level => s.driveRst level
  | .read addr size => if s.rst then s.answer 0 else s.hostRead addr size
  | .write addr size data => if s.rst then s else s.hostWrite addr size data
  | .wait => if s.rst then s.answer 0 else s.waitTurn

/-- The host's turn: it performs its oldest pending operation (R85). -/
def State.hostTurn (s : State) : State :=
  match s.host.pending with
  | [] => s
  | op :: rest => State.perform { s with host := { s.host with pending := rest, turns := s.host.turns - 1 } } op

/-! ### Host-program notation (R130, R131) -/

/-- `wr REG, imm32`. -/
def HostOp.wr (r : Reg) (imm : Word) : HostOp := .write (BitVec.ofNat 32 r.offset) .word imm

/-- `rd REG`. -/
def HostOp.rd (r : Reg) : HostOp := .read (BitVec.ofNat 32 r.offset) .word

/-- `wb IBUF+i, imm8`. -/
def HostOp.wb (i : Nat) (imm : Byte) : HostOp := .write (BitVec.ofNat 32 (ibufBase + i)) .byte (imm.setWidth 32)

/-- `rb OBUF+i`. -/
def HostOp.rb (i : Nat) : HostOp := .read (BitVec.ofNat 32 (obufBase + i)) .byte

/-- `cmd M` (R131). -/
def hostCmd (i : Instr) : List HostOp := [HostOp.wr .cmd (encode i)]

/-- `run M`: `cmd M` followed by `wait` (R131). -/
def hostRun (i : Instr) : List HostOp := hostCmd i ++ [.wait]

/-- The byte writes of `load`, from offset `i` on. -/
def loadBytes : Nat → List Byte → List HostOp
  | _, [] => []
  | i, b :: bs => HostOp.wb i b :: loadBytes (i + 1) bs

/-- `load [b0, b1, ...]` (R131). -/
def hostLoad (bs : List Byte) : List HostOp := loadBytes 0 bs ++ [HostOp.wr .inLen (BitVec.ofNat 32 bs.length)]

end Sys2Proof.Machine
end

