-- ==== Sys2Proof/Machine/Decoder.lean ====
section
/-! DEFINITION. The stream decoder DECODE (44_decoder.md R220 to R225). -/

namespace Sys2Proof.Machine

/-- The single-symbol case: emit the root's symbol `k` times, and count each (R220 step 3, R221). -/
def emitRoot (sym : Byte) : Nat → State → Run State
  | 0, s => .ok s
  | k + 1, s => do
    let s ← s.emit sym
    emitRoot sym k { s with walk := { s.walk with emitted := s.walk.emitted + 1 } }

/-- One bit of the walk: step to a child, and at a leaf emit its symbol and go back to the root. The flag says that the last
symbol has been emitted (R220, R222). -/
def walkBit (s : State) : Run (Bool × State) :=
  let x := nodeAt s.tree.nodes s.walk.cur
  let cur := if s.walk.byte.getLsbD s.walk.bitpos.val then x.right else x.left
  let s := { s with walk := { s.walk with cur := cur } }
  let y := nodeAt s.tree.nodes cur
  if y.leaf then do
    let s ← s.emit y.sym
    let s := { s with walk := { s.walk with emitted := s.walk.emitted + 1, cur := s.tree.root } }
    .ok (s.walk.emitted == s.walk.total, s)
  else .ok (false, s)

/-- The inner loop: the bits of BYTE from `pos` down to 0, or until the last symbol (R220). -/
def walkByte : (pos : Nat) → State → Run State
  | 0, s => do
    let (_, s) ← walkBit { s with walk := { s.walk with bitpos := 0 } }
    .ok s
  | pos + 1, s => do
    let (last, s) ← walkBit { s with walk := { s.walk with bitpos := Fin.ofNat 8 (pos + 1) } }
    if last then .ok s else walkByte pos s

/-- The outer loop: while symbols are missing, fetch a byte and walk it; `k` input bytes are left (R220, R223, R319). -/
def decodeLoop : (k : Nat) → State → Run State
  | 0, s =>
    if s.walk.emitted < s.walk.total then .error ⟨.idStreamTrunc, s.walk.emitted.extractLsb' 0 32, s⟩ else .ok s
  | k + 1, s =>
    if s.walk.emitted < s.walk.total then do
      let (b, s) := s.fetch
      let s ← walkByte 7 { s with walk := { s.walk with byte := b, bitpos := 7 } }
      decodeLoop k s
    else .ok s

/-- DECODE (R220). DESIGN CHOICE (log 12): TOTAL is the 64-bit sum, also in states that no run reaches. -/
def decodeBody (s : State) : Run State := do
  s.inputChecks
  if s.treeValid = false then .error ⟨.cmdNoTree, 0x00000008, s⟩
  else
    let s := { s with walk := { s.walk with total := BitVec.ofNat 64 s.ftTotal, emitted := 0 } }
    let root := nodeAt s.tree.nodes s.tree.root
    if root.leaf then emitRoot root.sym s.walk.total.toNat s
    else decodeLoop s.inputLeft { s with walk := { s.walk with cur := s.tree.root } }

/-- DECODE, from acceptance to completion. -/
def execDecode (s : State) : Host.Outcome State Fault Refusal := .next (settle (decodeBody s))

end Sys2Proof.Machine
end

