-- ==== Sys2Proof/Machine/Encoder.lean ====
section
/-! DEFINITION. The stream encoder ENCODE (43_encoder.md R200 to R202). -/

namespace Sys2Proof.Machine

/-- The code `c_0 .. c_(L-1)` of a code-table entry: `c_m = CODE_BITS[L-1-m]` (R59). -/
def CodeEntry.code (e : CodeEntry) : List Bool :=
  (List.range e.len.toNat).map (fun m => e.bits.getLsbD (e.len.toNat - 1 - m))

/-- Append one code bit to the accumulator, and emit it when it fills (R200). -/
def pushBit (b : Bool) (s : State) : Run State :=
  let s := { s with acc := writeBit s.acc (7 - s.nacc.val) b, nacc := s.nacc + 1 }
  if s.nacc = 8 then do
    let s ← s.emit s.acc
    .ok { s with acc := 0, nacc := 0 }
  else .ok s

/-- Append the bits of a code, in order. -/
def pushBits : List Bool → State → Run State
  | [], s => .ok s
  | b :: bs, s => do
    let s ← pushBit b s
    pushBits bs s

/-- One turn of ENCODE's loop (R200). -/
def encodeOne (s : State) : Run State :=
  let (sym, s) := s.fetch
  if (codeAt s.codes sym).has = false then .error ⟨.idNoCode, s.inPtr - 1, s⟩
  else pushBits (codeAt s.codes sym).code s

/-- `k` turns of ENCODE's loop. -/
def encodeLoop : Nat → State → Run State
  | 0, s => .ok s
  | k + 1, s => do
    let s ← encodeOne s
    encodeLoop k s

/-- `flush(Z)`: emit the final partial byte (R201, R104). -/
def flush (z : Bool) (s : State) : Run State := do
  let s ←
    if z then (if s.acc ≠ 0 then s.emit s.acc else .ok s)
    else (if 0 < s.nacc.val then s.emit s.acc else .ok s)
  .ok { s with acc := 0, nacc := 0 }

/-- ENCODE(Z) (R200). The information word of CMD_NO_CODE is the command word. -/
def encodeBody (z : Bool) (s : State) : Run State := do
  s.inputChecks
  if s.codeValid = false then .error ⟨.cmdNoCode, commandWord z 0x06, s⟩
  else do
    let s := { s with acc := 0, nacc := 0 }
    let s ← encodeLoop s.inputLeft s
    flush z s

/-- ENCODE, from acceptance to completion. -/
def execEncode (z : Bool) (s : State) : Host.Outcome State Fault Refusal := .next (settle (encodeBody z s))

end Sys2Proof.Machine
end

