-- ==== Sys2Proof/Machine/Frequency.lean ====
section
/-! DEFINITION. The frequency table commands CLEAR and COUNT (40_frequency.md R140 to R143). -/

namespace Sys2Proof.Machine

/-- CLEAR (R141). -/
def clearBody (s : State) : Run State := .ok s.clearFt

/-- One turn of COUNT's loop: fetch a byte and count it (R142). -/
def countOne (s : State) : State :=
  let (b, s) := s.fetch
  s.putFt b { present := true, count := (s.ftAt b).count + 1 }

/-- `k` turns of COUNT's loop. -/
def countLoop : Nat → State → State
  | 0, s => s
  | k + 1, s => countLoop k (countOne s)

/-- COUNT (R142). Each turn advances IN_PTR by 1, so `while IN_PTR < IN_LEN` takes as many turns as bytes are left (R319). -/
def countBody (s : State) : Run State := do
  s.inputChecks
  let s := s.clearFt
  .ok (countLoop s.inputLeft s)

/-- CLEAR, from acceptance to completion. -/
def execClear (s : State) : Host.Outcome State Fault Refusal := .next (settle (clearBody s))

/-- COUNT, from acceptance to completion. -/
def execCount (s : State) : Host.Outcome State Fault Refusal := .next (settle (countBody s))

end Sys2Proof.Machine
end

