-- ==== Sys2Proof/Machine/Serializer.lean ====
section
/-! DEFINITION. The frequency-table serializer WRHDR and deserializer RDHDR (41_serializer.md R160 to R164; the layout is
30_encoding.md R120 to R124). -/

namespace Sys2Proof.Machine

/-- The magic "SHF" (R121). -/
def magic : List Byte := [0x53, 0x48, 0x46]

/-- WRHDR's loop over the symbols: an entry for each present one, its Symbol byte and its 8-byte count (R123, R160). -/
def writeEntries : List Byte → State → Run State
  | [], s => .ok s
  | sym :: rest, s => do
    let s ←
      if (s.ftAt sym).present then do
        let s ← s.emit sym
        s.writeLe8 (s.ftAt sym).count
      else .ok s
    writeEntries rest s

/-- WRHDR (R160). -/
def wrhdrBody (s : State) : Run State := do
  let s ← State.emitMany magic s
  let s ← s.writeLe8 (BitVec.ofNat 64 s.nsym)
  writeEntries allSymbols s

/-- RDHDR's loop over the entries: `k` of them are left and `i` is the number of the next (R163). -/
def readEntries : (k i : Nat) → State → Run State
  | 0, _, s => .ok s
  | k + 1, i, s => do
    s.need 9 s.inPtr
    let (sym, s) := s.fetch
    let (c, s) := s.readLe8
    if (s.ftAt sym).present then .error ⟨.idHdrDup, (0#16 ++ BitVec.ofNat 8 i ++ sym).setWidth 32, s⟩
    else readEntries k (i + 1) (s.putFt sym { present := true, count := c })

/-- RDHDR (R163). -/
def rdhdrBody (s : State) : Run State := do
  s.inputChecks
  let s := s.clearFt
  s.need 3 s.inPtr
  let (m0, s) := s.fetch
  let (m1, s) := s.fetch
  let (m2, s) := s.fetch
  if [m0, m1, m2] ≠ magic then .error ⟨.idBadMagic, (0#8 ++ m2 ++ m1 ++ m0).setWidth 32, s⟩
  else do
    s.need 8 s.inPtr
    let (cnt, s) := s.readLe8
    if cnt.toNat = 0 then .error ⟨.idHdrEmpty, 0, s⟩
    else if 256 < cnt.toNat then .error ⟨.idHdrRange, cnt.extractLsb' 0 32, s⟩
    else readEntries cnt.toNat 0 s

/-- WRHDR, from acceptance to completion. -/
def execWrhdr (s : State) : Host.Outcome State Fault Refusal := .next (settle (wrhdrBody s))

/-- RDHDR, from acceptance to completion. -/
def execRdhdr (s : State) : Host.Outcome State Fault Refusal := .next (settle (rdhdrBody s))

end Sys2Proof.Machine
end

