-- ==== Sys2Proof/Machine/TreeBuilder.lean ====
section
/-! DEFINITION. The tree builder BUILD and the code-table generator CODEGEN (42_tree.md R180 to R192). -/

namespace Sys2Proof.Machine

/-! ### BUILD -/

/-- Put `x` into a sequence sorted by `key`, before the first element whose key is not smaller. -/
def insertByKey {α : Type} (key : α → Nat) (x : α) : List α → List α
  | [] => [x]
  | y :: ys => if key x ≤ key y then x :: y :: ys else y :: insertByKey key x ys

/-- `stable_sort_by(key, q)`: ascending by `key`, elements of equal keys in their order in `q` (R11). -/
def stableSortBy {α : Type} (key : α → Nat) (q : List α) : List α := q.foldr (insertByKey key) []

/-- The weight of node `i`, the key of BUILD's sorts. -/
def nodeWeight (a : Nodes) (i : NodeIx) : Nat := (nodeAt a i).w.toNat

/-- The leaf BUILD makes for a present symbol (R181, step 1). -/
def leafNode (sym : Byte) (count : Count) : Node where
  leaf := true
  sym := sym
  w := count
  left := 0
  right := 0
  hasp := false
  parent := 0

/-- Step 1 of BUILD: one leaf per present symbol, in the order of the list, from index `k` on (R181). -/
def addLeaves (s : State) : List Byte → Nat → Nodes → Nodes
  | [], _, a => a
  | sym :: rest, k, a =>
    if (s.ftAt sym).present then addLeaves s rest (k + 1) (putNode a (nodeIx k) (leafNode sym (s.ftAt sym).count))
    else addLeaves s rest k a

/-- The internal node over `a` (right) and `b` (left), the plain sum of their weights (R180, R181, step 3). -/
def mergedNode (arena : Nodes) (a b : NodeIx) : Node where
  leaf := false
  sym := 0
  w := (nodeAt arena a).w + (nodeAt arena b).w
  left := b
  right := a
  hasp := false
  parent := 0

/-- `NODE_HASP[i] <- 1; NODE_PARENT[i] <- p`. -/
def setParent (arena : Nodes) (i p : NodeIx) : Nodes :=
  putNode arena i { nodeAt arena i with hasp := true, parent := p }

/-- One merge: write node `k` over `a` and `b`, and make it their parent (R181, step 3). -/
def mergeNodes (arena : Nodes) (a b k : NodeIx) : Nodes :=
  setParent (setParent (putNode arena k (mergedNode arena a b)) a k) b k

/-- Step 3 of BUILD: while the sequence has two nodes, merge the first two, reinsert at the back, re-sort (R181). `m` bounds
the merges, `k` is the index of the next internal node; the answer is the next index, the sequence left, and the arena. -/
def mergeLoop : (m k : Nat) → List NodeIx → Nodes → Nat × List NodeIx × Nodes
  | m + 1, k, a :: b :: q, arena =>
    let arena := mergeNodes arena a b (nodeIx k)
    mergeLoop m (k + 1) (stableSortBy (nodeWeight arena) (q ++ [nodeIx k])) arena
  | _, k, q, arena => (k, q, arena)

/-- Steps 1 to 4 of BUILD for a table with `n` present symbols (R181). -/
def buildTree (s : State) (n : Nat) : List NodeIx × Tree :=
  let arena := addLeaves s allSymbols 0 s.tree.nodes
  let q := stableSortBy (nodeWeight arena) ((List.range n).map nodeIx)
  let (k, q, arena) := mergeLoop n n q arena
  (q, { nodes := arena, root := q.headD 0, count := Fin.ofNat 512 k })

/-- BUILD (R181). -/
def buildBody (s : State) : Run State :=
  let s := s.invalidateTree
  if s.nsym = 0 then .error ⟨.idEmptyTable, 0, s⟩
  else if 2 ^ 64 - 1 < s.ftTotal then .error ⟨.idWeightOvf, 0, s⟩
  else
    let (q, tree) := buildTree s s.nsym
    .ok { s with tree := tree, mergeQ := q, treeValid := true }

/-! ### CODEGEN -/

/-- The parent walk from node `j`, with `bits` appended so far (R190); `none` when no node without a parent is reached within
`fuel` steps. -/
def parentWalk (a : Nodes) : (fuel : Nat) → NodeIx → List Bool → Option (List Bool)
  | fuel, j, bits =>
    if (nodeAt a j).hasp then
      match fuel with
      | 0 => none
      | fuel + 1 =>
        let p := (nodeAt a j).parent
        parentWalk a fuel p (bits ++ [if (nodeAt a p).left = j then false else true])
    else some bits

/-- The code of the leaf at `i`, root side first (R190): at most 255 bits (R192; DESIGN CHOICE, log 11). -/
def leafCode (a : Nodes) (i : NodeIx) : Option (List Bool) := (parentWalk a 255 i []).map List.reverse

/-- `for m in 0 .. L-1: CODE_BITS[L-1-m] <- code[m]` (R190). -/
def writeCodeBits : List Bool → BitVec 256 → BitVec 256
  | [], v => v
  | b :: rest, v => writeCodeBits rest (writeBit v rest.length b)

/-- CODEGEN's loop over the arena: `k` nodes are left, the next is number `i` (R190). -/
def codegenLoop (a : Nodes) : (k i : Nat) → Vector CodeEntry 256 → Option (Vector CodeEntry 256)
  | 0, _, c => some c
  | k + 1, i, c =>
    let x := nodeAt a (nodeIx i)
    if x.leaf then
      match leafCode a (nodeIx i) with
      | none => none
      | some code =>
        codegenLoop a k (i + 1)
          (putCode c x.sym
            { has := true, len := BitVec.ofNat 8 code.length, bits := writeCodeBits code (codeAt c x.sym).bits })
    else codegenLoop a k (i + 1) c

/-- CODEGEN (R190). -/
def codegenBody (s : State) : Except Stop State :=
  let s := s.invalidateCodes
  if s.treeValid = false then .error (.raised ⟨.cmdNoTree, 0x00000004, s⟩)
  else
    match codegenLoop s.tree.nodes s.tree.count.val 0 (Vector.replicate 256 CodeEntry.empty) with
    | none => .error (.stuck .walkDoesNotEnd)
    | some c => .ok { s with codes := c, codeValid := true }

/-- BUILD, from acceptance to completion. -/
def execBuild (s : State) : Host.Outcome State Fault Refusal := .next (settle (buildBody s))

/-- CODEGEN, from acceptance to completion. -/
def execCodegen (s : State) : Host.Outcome State Fault Refusal := settleStop (codegenBody s)

end Sys2Proof.Machine
end

