-- ==== Sys2Proof/Machine/Whole.lean ====
section
/-! DEFINITION. NOP and the whole operations COMPRESS and DECOMPRESS (45_operations.md R240 to R244). A composite runs the
bodies of the step commands; the first `raise` in one of them aborts the whole (R240). -/

namespace Sys2Proof.Machine

/-- NOP, from acceptance to completion (R241). -/
def execNop (s : State) : Host.Outcome State Fault Refusal := .next s.finish

/-- The first line of both composites: IN_PTR <- 0; OUT_PTR <- 0 (R242, R243). -/
def State.rewind (s : State) : State := { s with inPtr := 0, outPtr := 0 }

/-- COMPRESS(Z) (R242). -/
def compressBody (z : Bool) (s : State) : Except Stop State := do
  let s ← liftRun (countBody s.rewind)
  let s ← liftRun (buildBody s)
  let s ← codegenBody s
  let s ← liftRun (wrhdrBody s)
  liftRun (encodeBody z { s with inPtr := 0 })

/-- DECOMPRESS (R243). -/
def decompressBody (s : State) : Run State := do
  let s ← rdhdrBody s.rewind
  let s ← buildBody s
  decodeBody s

/-- COMPRESS, from acceptance to completion. -/
def execCompress (z : Bool) (s : State) : Host.Outcome State Fault Refusal := settleStop (compressBody z s)

/-- DECOMPRESS, from acceptance to completion. -/
def execDecompress (s : State) : Host.Outcome State Fault Refusal := .next (settle (decompressBody s))

end Sys2Proof.Machine
end

