-- ==== Sys2Proof/Machine/Dispatch.lean ====
section
/-! DEFINITION. The meaning of every command: one arm per constructor of `Instr`. -/

namespace Sys2Proof.Machine

/-- Run one command from the state right after its acceptance to the state right after its completion step (R318). -/
def exec (i : Instr) (s : State) : Host.Outcome State Fault Refusal :=
  match i with
  | .nop => Sys2Proof.Machine.execNop s
  | .clear => Sys2Proof.Machine.execClear s
  | .count => Sys2Proof.Machine.execCount s
  | .build => Sys2Proof.Machine.execBuild s
  | .codegen => Sys2Proof.Machine.execCodegen s
  | .wrhdr => Sys2Proof.Machine.execWrhdr s
  | .encode z => Sys2Proof.Machine.execEncode z s
  | .rdhdr => Sys2Proof.Machine.execRdhdr s
  | .decode => Sys2Proof.Machine.execDecode s
  | .compress z => Sys2Proof.Machine.execCompress z s
  | .decompress => Sys2Proof.Machine.execDecompress s

end Sys2Proof.Machine
end

