-- ==== Sys2Proof/Machine/Agents.lean ====
section
/-! DEFINITION. The two agents, the host and the block (00_scope.md R14), and which of them moves (70_reset_and_hazards.md
R318, R320, log 5). -/

namespace Sys2Proof.Machine

/-- Whether the next step is the host's: it has an operation to perform, and either no command is running (or RST is asserted),
or more host steps may come before the completion step. -/
def State.hostMoves (s : State) : Bool :=
  !s.host.pending.isEmpty && (s.rst || !s.busy || decide (0 < s.host.turns))

/-- The block's turn: run the latched command to its completion (R318). While IDLE, or while RST is asserted, the block does
nothing (R292, R300). An illegal word never stays latched (R264); were it, the block would raise CMD_ILLEGAL (DEDUCED, log 13). -/
def State.blockTurn (s : State) : Host.Outcome State Fault Refusal :=
  if s.rst then .next s
  else
    match s.seq with
    | .idle => .next s
    | .run w _ =>
      match decode w with
      | .ok i => exec i s
      | .error _ => .next (s.raise .cmdIllegal w)

/-- The state right after the acceptance of the word `w`, IN_EN sampled, with the block's turn next (R32, R264). -/
def State.latched (s : State) (w : Word) : State :=
  { s with
    rst := false
    seq := .run w .start
    inEnSample := s.ctrl.inEn
    done := false
    err := false
    errCause := none
    errInfo := 0
    host := { s.host with turns := 0 } }

end Sys2Proof.Machine
end

