-- ==== Sys2Proof/Machine/Step.lean ====
section
/-! DEFINITION. One step of the machine: a host operation, or the block's turn. -/

namespace Sys2Proof.Machine

/-- One step (R14, R85, R318). -/
def step (s : State) : Host.Outcome State Fault Refusal := if s.hostMoves then .next s.hostTurn else s.blockTurn

/-- `s` with the command word `w` latched, as an acceptance leaves it, and the block's turn next (R25, R264, log 6). -/
def State.withFetchWord (s : State) (nbits w : Nat) : State := s.latched (BitVec.ofNat 32 (w % 2 ^ nbits))

end Sys2Proof.Machine
end

