-- ==== Sys2Proof/Safety.lean ====
section
/-! DEFINITION. The terms in which claims about the machine are stated: what a safe state is (the invariants the spec gives,
10_state.md R31, R56, R57, 60_exceptions.md R264 to R268), what a completed command leaves, and the byte sequences the archive
format defines (30_encoding.md R120 to R126). -/

namespace Sys2Proof.Machine

/-! ### Invariants -/

/-- The buffers are in canonical form and hold nothing beyond their sizes (R70, R71). -/
def State.buffersOk (s : State) : Prop :=
  s.ibuf.wf ∧ s.obuf.wf ∧ (∀ c ∈ s.ibuf, c.1 < s.cfg.ibufSize) ∧ ∀ c ∈ s.obuf, c.1 < s.cfg.obufSize

/-- The STATUS invariants of R31: DONE and ERR exclude each other, neither holds while BUSY, CODE_VALID needs TREE_VALID. -/
def State.flagsOk (s : State) : Prop :=
  ¬(s.done = true ∧ s.err = true) ∧ (s.busy = true → s.done = false ∧ s.err = false) ∧
    (s.codeValid = true → s.treeValid = true)

/-- The error record (R35, R36, R264, R265): ERR set has a cause; no cause has no information word; no cause while BUSY. -/
def State.recordOk (s : State) : Prop :=
  (s.err = true → s.errCause.isSome = true) ∧ (s.errCause = none → s.errInfo = 0) ∧
    (s.busy = true → s.errCause = none)

/-- The sequencer holds only legal words (R264), and is IDLE while RST is asserted (R300). -/
def State.seqOk (s : State) : Prop :=
  (∀ w p, s.seq = .run w p → ∃ i, decode w = .ok i) ∧ (s.rst = true → s.seq = .idle)

/-- The machine's structural invariant. -/
def State.Inv (s : State) : Prop :=
  s.cfg.legal = true ∧ s.buffersOk ∧ s.flagsOk ∧ s.recordOk ∧ s.seqOk

/-- Node `i` of the arena, by number. -/
def State.node (s : State) (i : Nat) : Node := nodeAt s.tree.nodes (nodeIx i)

/-- The leaves of a valid tree (R56, R57): indices `0 .. n-1`, one for each present symbol, in ascending symbol order, each
with its count as weight. -/
def State.leavesOk (s : State) : Prop :=
  (∀ i < s.nsym, (s.node i).leaf = true ∧ (s.ftAt (s.node i).sym).present = true ∧
    (s.node i).w = (s.ftAt (s.node i).sym).count) ∧
  (∀ j < s.nsym, ∀ i < j, (s.node i).sym < (s.node j).sym) ∧
  ∀ sym ∈ allSymbols, (s.ftAt sym).present = true → ∃ i ∈ List.range s.nsym, (s.node i).sym = sym

/-- An internal node of a valid tree (R57): two different children at lower indices, each with this node as its parent, and
the sum of their weights. -/
def State.internalOk (s : State) (i : Nat) : Prop :=
  (s.node i).leaf = false ∧ (s.node i).left.val < i ∧ (s.node i).right.val < i ∧ (s.node i).left ≠ (s.node i).right ∧
    (s.node (s.node i).left.val).hasp = true ∧ (s.node (s.node i).left.val).parent.val = i ∧
    (s.node (s.node i).right.val).hasp = true ∧ (s.node (s.node i).right.val).parent.val = i ∧
    (s.node i).w.toNat = (s.node (s.node i).left.val).w.toNat + (s.node (s.node i).right.val).w.toNat

/-- A node other than the root (R57): it has one parent, an internal node at a higher index that has it as a child. -/
def State.childOk (s : State) (i : Nat) : Prop :=
  (s.node i).hasp = true ∧ s.nsym ≤ (s.node i).parent.val ∧ i < (s.node i).parent.val ∧
    (s.node i).parent.val < 2 * s.nsym - 1 ∧
    ((s.node (s.node i).parent.val).left.val = i ∨ (s.node (s.node i).parent.val).right.val = i)

/-- The tree invariants of R57, with the index layout of R56: `n >= 1`, `NODE_COUNT = 2n - 1`, leaves first, internal nodes
after them, the root last, and the root's weight the total. -/
def State.treeOk (s : State) : Prop :=
  1 ≤ s.nsym ∧ s.tree.count.val = 2 * s.nsym - 1 ∧ s.tree.root.val = 2 * s.nsym - 2 ∧
    (s.node (2 * s.nsym - 2)).hasp = false ∧ (s.node (2 * s.nsym - 2)).w.toNat = s.ftTotal ∧ s.leavesOk ∧
    (∀ i < 2 * s.nsym - 1, s.nsym ≤ i → s.internalOk i) ∧ ∀ i < 2 * s.nsym - 2, s.childOk i

/-- The order of BUILD's merge sequence: by weight, and among equal weights by arena index (R182). -/
abbrev State.precedes (s : State) (i j : NodeIx) : Prop :=
  nodeWeight s.tree.nodes i < nodeWeight s.tree.nodes j ∨
    (nodeWeight s.tree.nodes i = nodeWeight s.tree.nodes j ∧ i < j)

/-- Internal node `i` is the merge of the two first nodes of the sequence as it stood then (R181, R182): its right child precedes
its left child, and both precede every earlier node that was merged only later. -/
def State.mergedInOrder (s : State) (i : Nat) : Prop :=
  s.precedes (s.node i).right (s.node i).left ∧
    ∀ j < i, i < (s.node j).parent.val → s.precedes (s.node i).left (nodeIx j)

/-- Every internal node is merged in the order of R181 and R182. -/
def State.mergeOrderOk (s : State) : Prop := ∀ i < 2 * s.nsym - 1, s.nsym ≤ i → s.mergedInOrder i

/-- The code table holds the codes of the current tree (R59, R60, R190): exactly the present symbols have one, it is the path
of the symbol's leaf, and the bits above its length are 0. -/
def State.codesOk (s : State) : Prop :=
  (∀ sym ∈ allSymbols, (codeAt s.codes sym).has = (s.ftAt sym).present ∧
    ((codeAt s.codes sym).has = false → codeAt s.codes sym = CodeEntry.empty)) ∧
  ∀ i < s.nsym,
    leafCode s.tree.nodes (nodeIx i) = some (codeAt s.codes (s.node i).sym).code ∧
    (codeAt s.codes (s.node i).sym).bits.toNat < 2 ^ (codeAt s.codes (s.node i).sym).len.toNat

/-- What TREE_VALID and CODE_VALID say (R57, R58, R60): the arena holds the tree BUILD makes of the table as it stands, and the
code table the codes of that tree. -/
def State.TablesInv (s : State) : Prop :=
  (s.treeValid = true → s.treeOk ∧ s.mergeOrderOk) ∧ (s.codeValid = true → s.treeValid = true ∧ s.codesOk)

/-! ### Completed commands -/

/-- `t` is `s` after a successful completion, as far as SEQ, STATUS and the error record go (R268). -/
def finished (s t : State) : Prop :=
  t.seq = .idle ∧ t.done = true ∧ t.err = s.err ∧ t.errCause = s.errCause ∧ t.errInfo = s.errInfo

/-- `t` is `s` after an abort with cause `c` and information word `info` (R265). -/
def aborted (s t : State) (c : Cause) (info : Word) : Prop :=
  t.seq = .idle ∧ t.done = s.done ∧ t.err = true ∧ t.errCause = some c ∧ t.errInfo = info

/-- What no command changes: the parameters, RST, HERR, CTRL and the sample of IN_EN, IN_LEN, the selectors, every byte of IBUF,
and the host's side but for the turns the running command leaves it (R26, R82, R282). -/
def sameHostSide (s t : State) : Prop :=
  t.cfg = s.cfg ∧ t.rst = s.rst ∧ t.herr = s.herr ∧ t.ctrl = s.ctrl ∧ t.inEnSample = s.inEnSample ∧
    t.inLen = s.inLen ∧ t.ftSel = s.ftSel ∧ t.nodeSel = s.nodeSel ∧ t.codeSel = s.codeSel ∧
    t.codeWsel = s.codeWsel ∧ (∀ i, t.ibufAt i = s.ibufAt i) ∧
    t.epoch = s.epoch ∧ t.host.pending = s.host.pending ∧ t.host.readData = s.host.readData ∧
    t.host.draws = s.host.draws

/-- The frequency table and the validity bits are unchanged, and the tree and the code table where they are valid. -/
def sameTables (s t : State) : Prop :=
  t.ft = s.ft ∧ t.treeValid = s.treeValid ∧ t.codeValid = s.codeValid ∧ (s.treeValid = true → t.tree = s.tree) ∧
    (s.codeValid = true → t.codes = s.codes)

/-- No byte of OBUF changes, nor OUT_PTR. -/
def sameOutput (s t : State) : Prop := t.outPtr = s.outPtr ∧ ∀ i, t.obufAt i = s.obufAt i

/-! ### Streams and archives -/

/-- The start check passes (R263). -/
abbrev State.inputOk (s : State) : Prop :=
  s.inEnSample = true ∧ s.inLen.toNat ≤ s.cfg.ibufSize ∧ s.inPtr.toNat ≤ s.inLen.toNat

/-- The input stream from IN_PTR on: `IBUF[IN_PTR .. IN_LEN-1]` (R26). -/
def State.inputBytes (s : State) : List Byte :=
  (List.range s.inputLeft).map (fun j => s.ibufAt (s.inPtr.toNat + j))

/-- `n` bytes of IBUF from offset `i` on. -/
def State.ibufBytes (s : State) (i n : Nat) : List Byte := (List.range n).map (fun j => s.ibufAt (i + j))

/-- `n` bytes of OBUF from offset `i` on. -/
def State.obufBytes (s : State) (i n : Nat) : List Byte := (List.range n).map (fun j => s.obufAt (i + j))

/-- The SHF header of the frequency table (R120 to R123). -/
def State.headerBytes (s : State) : List Byte :=
  magic ++ leBytes8 (BitVec.ofNat 64 s.nsym) ++
    (allSymbols.filter (fun sym => (s.ftAt sym).present)).flatMap (fun sym => sym :: leBytes8 (s.ftAt sym).count)

/-- The Symbol byte of entry `j` of a header at IN_PTR (R123, R124). -/
def State.entrySym (s : State) (j : Nat) : Byte := s.ibufAt (s.inPtr.toNat + 11 + 9 * j)

/-- The count field of entry `j` of a header at IN_PTR (R123, R124). -/
def State.entryCount (s : State) (j : Nat) : Count := BitVec.ofNat 64 (leNat (s.ibufBytes (s.inPtr.toNat + 12 + 9 * j) 8))

/-- The length of that header: `11 + 9n` (R124). -/
def State.headerLength (s : State) : Nat := 11 + 9 * s.nsym

/-- Packed byte `j` of a bit sequence: bit `8j + m` is bit `7 - m` of it, and missing bits are 0 (R125, R126). -/
def packedByte (bits : List Bool) (j : Nat) : Byte :=
  (List.range 8).foldl (fun v m => writeBit v (7 - m) (bits.getD (8 * j + m) false)) 0#8

/-- The packed bytes of a bit sequence (R125, R126). -/
def packBits (bits : List Bool) : List Byte := (List.range ((bits.length + 7) / 8)).map (packedByte bits)

/-- The bits of packed bytes, most significant first (R125). -/
def unpackBits (bytes : List Byte) : List Bool :=
  bytes.flatMap (fun b => (List.range 8).map (fun m => b.getLsbD (7 - m)))

/-- What ENCODE(Z) appends for a bit sequence: with `Z = 1` a partial last byte that is 0 is dropped (R126, R201). -/
def packedOutput (z : Bool) (bits : List Bool) : List Byte :=
  if z = true ∧ bits.length % 8 ≠ 0 ∧ packedByte bits (bits.length / 8) = 0#8 then (packBits bits).dropLast
  else packBits bits

/-- The node reached from node `i` by a bit sequence: 0 to the left child, 1 to the right child (R127). -/
def State.descend (s : State) (i : NodeIx) (bits : List Bool) : NodeIx :=
  bits.foldl (fun j b => if b then (nodeAt s.tree.nodes j).right else (nodeAt s.tree.nodes j).left) i

/-- The code the tree gives a symbol: the path of its leaf (R190). -/
def State.treeCode (s : State) (sym : Byte) : List Bool :=
  (((List.range s.nsym).find? (fun i => (s.node i).sym == sym)).bind
    (fun i => leafCode s.tree.nodes (nodeIx i))).getD []

/-- The concatenated codes of a message (R125). -/
def State.messageBits (s : State) (msg : List Byte) : List Bool := msg.flatMap (fun b => (codeAt s.codes b).code)

/-- `c` is the state in which COMPRESS from `s` has the table and the codes of its input (R242). -/
def codedFrom (s c : State) : Prop :=
  ∃ c1 c2, exec .count s.rewind = .next c1 ∧ exec .build c1 = .next c2 ∧ exec .codegen c2 = .next c

/-! ### Frames -/

/-- Where the output of a command starts: at OUT_PTR, and at 0 for the whole operations (R28, R242, R243). -/
def outputBase (i : Instr) (s : State) : Nat :=
  match i with
  | .nop => s.outPtr.toNat
  | .clear => s.outPtr.toNat
  | .count => s.outPtr.toNat
  | .build => s.outPtr.toNat
  | .codegen => s.outPtr.toNat
  | .wrhdr => s.outPtr.toNat
  | .encode _ => s.outPtr.toNat
  | .rdhdr => s.outPtr.toNat
  | .decode => s.outPtr.toNat
  | .compress _ => 0
  | .decompress => 0

/-- The commands that write OBUF (R101). -/
def writesOutput (i : Instr) : Bool :=
  match i with
  | .nop => false
  | .clear => false
  | .count => false
  | .build => false
  | .codegen => false
  | .wrhdr => true
  | .encode _ => true
  | .rdhdr => false
  | .decode => true
  | .compress _ => true
  | .decompress => true

/-- A host access that R73 or R74 calls erroneous, in the rules' own terms. -/
def erroneousAccess (s : State) (addr : Word) (size : Size) : Prop :=
  (addr.toNat < 0x100 ∧
    (size ≠ .word ∨ addr.toNat % 4 ≠ 0 ∨
      addr.toNat ∉ [0x00, 0x04, 0x08, 0x0C, 0x10, 0x14, 0x18, 0x1C, 0x20, 0x24, 0x28, 0x2C, 0x30, 0x40, 0x44, 0x48, 0x4C,
        0x50, 0x54, 0x60, 0x64, 0x68, 0x6C])) ∨
  (0x100 ≤ addr.toNat ∧ addr.toNat < 0x40000000) ∨
  (0x40000000 ≤ addr.toNat ∧ addr.toNat < 0x80000000 ∧
    (addr.toNat % size.bytes ≠ 0 ∨ 0x40000000 + s.cfg.ibufSize < addr.toNat + size.bytes)) ∨
  (0x80000000 ≤ addr.toNat ∧
    (addr.toNat % size.bytes ≠ 0 ∨ 0x80000000 + s.cfg.obufSize < addr.toNat + size.bytes))

end Sys2Proof.Machine
end

