-- ==== Sys2Proof/Certificates/Slice0/Obligations.lean ====
section
/-! DEFINITION. The statements for the provers, each citing the rules of spec/ it comes from. -/

open Sys2Proof Sys2Proof.Machine

/-! ### Steps, decoding, reset -/

/-- A step runs the latched command: with RST released, a legal word in SEQ, and no host step to come first, the step is `exec`
of the decoded instruction at that state (R25, R318). The host's turn and the idle block complete what a step does. -/
def Obligations.StepRunsLatchedCommand : Prop :=
  (∀ (s : State) (w : Word) (p : Pos) (i : Instr), s.rst = false → s.seq = .run w p →
    (s.host.pending = [] ∨ s.host.turns = 0) → decode w = .ok i → i.wellFormed = true → step s = exec i s) ∧
  (∀ (s : State) (nbits w : Nat) (i : Instr), decodeTableWord nbits w = some i →
    step (s.withFetchWord nbits w) = exec i (s.withFetchWord nbits w)) ∧
  (∀ (s : State) (op : HostOp) (rest : List HostOp), s.host.pending = op :: rest →
    (s.rst = true ∨ s.seq = .idle ∨ 0 < s.host.turns) →
    step s = .next (State.perform { s with host := { s.host with pending := rest, turns := s.host.turns - 1 } } op)) ∧
  ∀ s : State, s.host.pending = [] → s.seq = .idle → step s = .next s

/-- Command words written out from R101 and R104 decode to the commands they stand for, and words R102 and R103 make illegal
to none. -/
def Obligations.SpecWordsDecode : Prop :=
  decode 0b00000000000000000000000000000000#32 = .ok .nop ∧
  decode 0b00000000000000000000000000000010#32 = .ok .count ∧
  decode 0b00000000000000000000000000000011#32 = .ok .build ∧
  decode 0b00000000000000000000000000000101#32 = .ok .wrhdr ∧
  decode 0b00000000000000000000000100000110#32 = .ok (.encode true) ∧
  decode 0b00000000000000000000000000001000#32 = .ok .decode ∧
  decode 0b00000000000000000000000000010000#32 = .ok (.compress false) ∧
  decode 0b00000000000000000000000100010001#32 = .error .modifierNotAllowed ∧
  decode 0b00000000000000000000000000001001#32 = .error .unknownOpcode ∧
  decode 0b10000000000000000000000000000000#32 = .error .reservedBits

/-- R102: the legal words are exactly those the rule describes, and the acceptance of any other aborts at once with CMD_ILLEGAL
and the word, changing nothing but STATUS.DONE, STATUS.ERR and the error record (and the model's own host fields). -/
def Obligations.LegalWordsAreExactlyThoseOfTheMap : Prop :=
  (∀ w : Word, (∃ i, decode w = .ok i) ↔
    (w.extractLsb' 9 23 = 0 ∧
      w.extractLsb' 0 8 ∈ ([0x00, 0x01, 0x02, 0x03, 0x04, 0x05, 0x06, 0x07, 0x08, 0x10, 0x11] : List Byte) ∧
      (w.getLsbD 8 = false ∨ w.extractLsb' 0 8 = 0x06#8 ∨ w.extractLsb' 0 8 = 0x10#8))) ∧
  ∀ (s : State) (w : Word), s.busy = false → (∀ i, decode w ≠ .ok i) →
    s.hostWrite 0x00000000#32 .word w =
      { s with
        done := false
        err := true
        errCause := some .cmdIllegal
        errInfo := w
        host := { s.host with turns := 0, draws := s.host.draws + 1 } }

/-- Decoder and encoder agree both ways: every instruction is read back from its word, and a word that decodes is the word of
the instruction read, so that no bit of it is dropped (R100, R101). -/
def Obligations.DecodeAndEncodeAgree : Prop :=
  (∀ i : Instr, i.wellFormed = true → decode (encode i) = .ok i) ∧ ∀ (w : Word) (i : Instr), decode w = .ok i → encode i = w

/-- R67: the reset values the spec gives. -/
def Obligations.ResetHoldsSpecValues : Prop :=
  State.reset.seq = .idle ∧ State.reset.statusWord = 0#32 ∧ State.reset.busy = false ∧ State.reset.done = false ∧
    State.reset.err = false ∧ State.reset.herr = false ∧ State.reset.treeValid = false ∧ State.reset.codeValid = false ∧
    State.reset.irq = false ∧ State.reset.ctrl.inEn = false ∧ State.reset.ctrl.ieDone = false ∧
    State.reset.ctrl.ieErr = false ∧ State.reset.errWord = 0#32 ∧ State.reset.errInfo = 0#32 ∧ State.reset.inLen = 0#32 ∧
    State.reset.inPtr = 0#32 ∧ State.reset.outPtr = 0#32 ∧ State.reset.ftSel = 0#8 ∧ State.reset.nodeSel = 0#9 ∧
    State.reset.codeSel = 0#8 ∧ State.reset.codeWsel = 0#3 ∧
    (∀ sym : Byte, (State.reset.ftAt sym).present = false ∧ (State.reset.ftAt sym).count = 0#64) ∧
    State.reset.tree.root = 0 ∧ State.reset.tree.count = 0 ∧ State.reset.acc = 0#8 ∧ State.reset.nacc = 0

/-- R300, R67: asserting RST in any state puts every register and table into its reset value; while it is asserted, reads return 0
and writes have no effect; and after its release every host register reads 0 (the last is the model's reading of the release,
log 9). -/
def Obligations.RstResetsFromEveryState : Prop :=
  ∀ s t : State, t = s.perform (.rst true) →
    t.seq = .idle ∧ t.statusWord = 0#32 ∧ t.ctrlWord = 0#32 ∧ t.errWord = 0#32 ∧ t.errInfo = 0#32 ∧ t.inLen = 0#32 ∧
    t.inPtr = 0#32 ∧ t.outPtr = 0#32 ∧ t.ftSel = 0#8 ∧ t.nodeSel = 0#9 ∧ t.codeSel = 0#8 ∧ t.codeWsel = 0#3 ∧
    (∀ sym : Byte, t.ftAt sym = FtEntry.absent) ∧ t.treeValid = false ∧ t.codeValid = false ∧ t.irq = false ∧
    t.tree.root = 0 ∧ t.tree.count = 0 ∧ t.acc = 0#8 ∧ t.nacc = 0 ∧
    (∀ (addr : Word) (size : Size), t.perform (.read addr size) = t.answer 0#32) ∧
    (∀ (addr : Word) (size : Size) (data : Word), t.perform (.write addr size data) = t) ∧
    ∀ r : Reg, (t.perform (.rst false)).readReg r = 0#32

/-- The state after reset meets the invariants that the steps keep. -/
def Obligations.ResetMeetsInvariants : Prop := State.reset.Inv ∧ State.reset.TablesInv

/-- Every step keeps the structural invariant: legal parameters, buffers in canonical form and within their sizes, the STATUS
invariants of R31, a consistent error record, only legal words latched. -/
def Obligations.StepKeepsStructuralInvariant : Prop := ∀ s t : State, s.Inv → step s = .next t → t.Inv

/-- Every step keeps what TREE_VALID and CODE_VALID promise: a valid tree meets R57 for the table as it stands and is merged in
the order of R181 and R182, and valid codes are the paths of that tree (R57 to R60). -/
def Obligations.StepKeepsTableInvariant : Prop := ∀ s t : State, s.TablesInv → step s = .next t → t.TablesInv

/-- No step stops: from every state whose tables are what their validity bits say, a step has a next state. -/
def Obligations.StepNeverStops : Prop := ∀ s : State, s.TablesInv → ∃ t, step s = .next t

/-- A command ends in one of two ways (R265, R268): finished, with DONE set and the error record as it was, or aborted with one
cause and its information word. -/
def Obligations.CommandFinishesOrAborts : Prop :=
  ∀ (i : Instr) (s t : State), exec i s = .next t → finished s t ∨ ∃ c info, aborted s t c info

/-- An accepted command completes: from a busy state, at most one step more than the drawn host turns leads to a state with
BUSY = 0 (R318, R320). -/
def Obligations.AcceptedCommandCompletes : Prop :=
  ∀ s : State, s.TablesInv → s.rst = false → s.busy = true →
    ∃ k t, k ≤ s.host.turns + 1 ∧ core.run k s = .next t ∧ State.busy t = false

/-! ### Frames of all commands -/

/-- What no command changes (R26, R71, R82, R282): the parameters, HERR, CTRL, IN_LEN, the selectors, every byte of IBUF, and
the host's pending operations and read data. -/
def Obligations.CommandsLeaveHostSide : Prop :=
  ∀ (i : Instr) (s t : State), exec i s = .next t → sameHostSide s t ∧ t.host.turns = 0

/-- The output stream of every command (R28, R77): OUT_PTR runs from the start of the output up to at most the size of OBUF
without wrapping, every byte of OBUF outside that range reads as before, and a command that writes no output changes neither
OUT_PTR nor any byte. -/
def Obligations.OutputChangesOnlyWhereWritten : Prop :=
  ∀ (i : Instr) (s t : State), s.cfg.legal = true → exec i s = .next t →
    outputBase i s ≤ t.outPtr.toNat ∧ t.outPtr.toNat ≤ max (outputBase i s) s.cfg.obufSize ∧
    (∀ k, k < outputBase i s ∨ t.outPtr.toNat ≤ k → t.obufAt k = s.obufAt k) ∧
    (writesOutput i = false → sameOutput s t)

/-- The tables and engine registers each command leaves alone, finished or aborted: those its entry does not list as written.
That the arena, the code table, the walk state and the merge sequence keep their values where the spec calls them unspecified
(I3 to I5) is the model's choice (log 3). -/
def Obligations.CommandsLeaveOtherTables : Prop :=
  ∀ (i : Instr) (s t : State), exec i s = .next t →
    ((∀ z, i ≠ .compress z) → i ∉ [.clear, .count, .rdhdr, .decompress] → t.ft = s.ft) ∧
    ((∀ z, i ≠ .compress z) → i ∉ [.build, .decompress] → t.tree = s.tree ∧ t.mergeQ = s.mergeQ) ∧
    ((∀ z, i ≠ .compress z) → i ≠ .codegen → t.codes = s.codes) ∧
    ((∀ z, i ≠ .compress z) → i ∉ [.clear, .count, .build, .codegen, .rdhdr, .decompress] →
      t.treeValid = s.treeValid ∧ t.codeValid = s.codeValid) ∧
    (i = .codegen → t.treeValid = s.treeValid) ∧
    (i ∈ [.nop, .clear, .build, .codegen, .wrhdr] → t.inPtr = s.inPtr) ∧
    ((∀ z, i ≠ .compress z ∧ i ≠ .encode z) → t.acc = s.acc ∧ t.nacc = s.nacc) ∧
    (i ∉ [.decode, .decompress] → t.walk = s.walk)

/-- IN_PTR never passes IN_LEN and never runs backwards inside a step command (R27). -/
def Obligations.InputPointerNeverWraps : Prop :=
  ∀ (i : Instr) (s t : State), exec i s = .next t → s.inPtr.toNat ≤ s.inLen.toNat →
    t.inPtr.toNat ≤ t.inLen.toNat ∧
    (i ≠ .decompress → (∀ z, i ≠ .compress z) → s.inPtr.toNat ≤ t.inPtr.toNat)

/-! ### NOP, CLEAR, COUNT -/

/-- R241: NOP does nothing but finish. -/
def Obligations.NopOnlyFinishes : Prop :=
  ∀ s : State, ∃ t, exec .nop s = .next t ∧ finished s t ∧ sameHostSide s t ∧ sameTables s t ∧ sameOutput s t ∧
    t.inPtr = s.inPtr

/-- R141: CLEAR, the word 0x00000001, empties the table, invalidates tree and codes, and leaves pointers and buffers alone. -/
def Obligations.ClearEmptiesTable : Prop :=
  decode 0x00000001#32 = .ok .clear ∧ ∀ s : State, ∃ t, exec .clear s = .next t ∧ finished s t ∧
    (∀ sym : Byte, t.ftAt sym = FtEntry.absent) ∧
    t.readReg .ftNsym = 0#32 ∧ t.treeValid = false ∧ t.codeValid = false ∧ t.inPtr = s.inPtr ∧ sameOutput s t ∧
    sameHostSide s t

/-- R143: after a successful COUNT each symbol is present exactly when it occurs in the input from IN_PTR on, its count is the
number of its occurrences, FT_NSYM is the number of distinct bytes and the counts sum to `IN_LEN - p`. -/
def Obligations.CountCountsInput : Prop :=
  ∀ s : State, s.inputOk → ∃ t, exec .count s = .next t ∧ finished s t ∧
    (∀ sym : Byte, (t.ftAt sym).present = s.inputBytes.contains sym ∧
      (t.ftAt sym).count.toNat = s.inputBytes.count sym) ∧
    t.nsym = s.inputBytes.dedup.length ∧ t.ftTotal = s.inLen.toNat - s.inPtr.toNat ∧ t.inPtr = s.inLen ∧
    t.treeValid = false ∧ t.codeValid = false ∧ sameOutput s t ∧ sameHostSide s t

/-- R263, R270: the start check of the commands that read the input, and what each reports when it fails; the whole operations
have set both pointers to 0 before it (R242, R243). IN_EN is the sample taken when the command started (R32, R87). -/
def Obligations.StartChecksRefuse : Prop :=
  (∀ (s : State) (i : Instr), i ∈ [.count, .encode false, .encode true, .rdhdr, .decode] →
    (s.inEnSample = false → exec i s = .next (s.raise .iifNotOpen 0#32)) ∧
    (s.inEnSample = true → (s.cfg.ibufSize < s.inLen.toNat ∨ s.inLen.toNat < s.inPtr.toNat) →
      exec i s = .next (s.raise .iifRange s.inLen))) ∧
  ∀ (s : State) (i : Instr), i ∈ [.compress false, .compress true, .decompress] →
    (s.inEnSample = false → exec i s = .next (s.rewind.raise .iifNotOpen 0#32)) ∧
    (s.inEnSample = true → s.cfg.ibufSize < s.inLen.toNat → exec i s = .next (s.rewind.raise .iifRange s.inLen))

/-- R190, R200, R220, R261: CODEGEN and DECODE need a valid tree and ENCODE valid codes; the information word is the command
word. -/
def Obligations.SequencingChecksRefuse : Prop :=
  (∀ s : State, s.treeValid = false →
    exec .codegen s = .next (s.invalidateCodes.raise .cmdNoTree 0x00000004#32)) ∧
  (∀ s : State, s.inputOk → s.treeValid = false → exec .decode s = .next (s.raise .cmdNoTree 0x00000008#32)) ∧
  (∀ s : State, s.inputOk → s.codeValid = false →
    exec (.encode false) s = .next (s.raise .cmdNoCode 0x00000006#32) ∧
    exec (.encode true) s = .next (s.raise .cmdNoCode 0x00000106#32))

/-! ### BUILD and CODEGEN -/

/-- BUILD completes for every non-empty table whose exact total fits 64 bits; the tree it makes meets R57 (R56, R181), and each of
its internal nodes is the merge R181 makes: the right child is the first node of the sequence, the left child the second
(R181, R182, R192). It leaves the table, the pointers and the buffers alone. -/
def Obligations.BuildMakesValidTree : Prop :=
  ∀ s : State, 1 ≤ s.nsym → s.ftTotal ≤ 2 ^ 64 - 1 → ∃ t, exec .build s = .next t ∧ finished s t ∧
    t.treeValid = true ∧ t.codeValid = false ∧ t.treeOk ∧ t.mergeOrderOk ∧ t.ft = s.ft ∧ t.inPtr = s.inPtr ∧ sameOutput s t ∧
    sameHostSide s t

/-- The two errors of BUILD (R181): an empty table, and a total past `2^64 - 1`; TREE_VALID and CODE_VALID end at 0. -/
def Obligations.BuildRefusesBadTables : Prop :=
  ∀ s : State,
    (s.nsym = 0 → exec .build s = .next (s.invalidateTree.raise .idEmptyTable 0#32)) ∧
    (s.nsym ≠ 0 → 2 ^ 64 - 1 < s.ftTotal → exec .build s = .next (s.invalidateTree.raise .idWeightOvf 0#32))

/-- R182: reinserting a new node at the back and re-sorting keeps the sequence sorted by weight and, among equal weights, by
arena index; nothing is lost or added. -/
def Obligations.ResortOrdersByWeightThenIndex : Prop :=
  ∀ (a : Nodes) (q : List NodeIx) (k : NodeIx),
    q.Pairwise (fun i j => nodeWeight a i < nodeWeight a j ∨ (nodeWeight a i = nodeWeight a j ∧ i < j)) →
    (∀ i ∈ q, i < k) →
    (stableSortBy (nodeWeight a) (q ++ [k])).Pairwise
      (fun i j => nodeWeight a i < nodeWeight a j ∨ (nodeWeight a i = nodeWeight a j ∧ i < j)) ∧
    (stableSortBy (nodeWeight a) (q ++ [k])).Perm (q ++ [k])

/-- R183: the tree BUILD makes depends on the frequency table alone, whatever the arena and the rest of the state held before. -/
def Obligations.BuildDependsOnTableOnly : Prop :=
  ∀ s s' t t' : State, s.ft = s'.ft → exec .build s = .next t → exec .build s' = .next t' →
    t.treeValid = t'.treeValid ∧
    (t.treeValid = true → t.tree.root = t'.tree.root ∧ t.tree.count = t'.tree.count ∧
      ∀ i < t.tree.count.val, t.node i = t'.node i)

/-- CODEGEN completes for every valid tree, and the code table it makes holds exactly the paths of the leaves (R59, R190). -/
def Obligations.CodegenMakesTreePaths : Prop :=
  ∀ s : State, s.treeValid = true → s.treeOk → ∃ t, exec .codegen s = .next t ∧ finished s t ∧ t.treeValid = true ∧
    t.codeValid = true ∧ t.codesOk ∧ t.ft = s.ft ∧ t.tree = s.tree ∧ t.inPtr = s.inPtr ∧ sameOutput s t ∧
    sameHostSide s t

/-- R191: in a valid code table no code is a prefix of the code of another symbol. -/
def Obligations.CodesArePrefixFree : Prop :=
  ∀ s : State, s.TablesInv → s.codeValid = true → ∀ a b : Byte, a ≠ b → (codeAt s.codes a).has = true →
    (codeAt s.codes b).has = true → ¬((codeAt s.codes a).code <+: (codeAt s.codes b).code)

/-- R192: with two or more symbols every code has 1 to `n - 1` bits; with one symbol the only code is empty. -/
def Obligations.CodeLengthsAreBounded : Prop :=
  ∀ s : State, s.TablesInv → s.codeValid = true → ∀ a : Byte, (codeAt s.codes a).has = true →
    (s.nsym = 1 → (codeAt s.codes a).code = []) ∧
    (2 ≤ s.nsym → 1 ≤ (codeAt s.codes a).code.length ∧ (codeAt s.codes a).code.length ≤ s.nsym - 1)

/-- R127: a 0 bit steps to the left child, a 1 bit to the right child, and the code of a symbol spells the path from the root
to its leaf. -/
def Obligations.CodeSpellsPathToLeaf : Prop :=
  ∀ s : State, s.TablesInv → s.codeValid = true → ∀ a : Byte, (codeAt s.codes a).has = true →
    (nodeAt s.tree.nodes (s.descend s.tree.root (codeAt s.codes a).code)).leaf = true ∧
    (nodeAt s.tree.nodes (s.descend s.tree.root (codeAt s.codes a).code)).sym = a

/-! ### WRHDR and RDHDR -/

/-- WRHDR completes when the header fits, writes exactly the `11 + 9n` bytes of R120 to R123 from OUT_PTR on, and changes
nothing else (R160). -/
def Obligations.WrhdrWritesHeader : Prop :=
  ∀ s : State, s.cfg.legal = true → s.outPtr.toNat + s.headerLength ≤ s.cfg.obufSize → ∃ t, exec .wrhdr s = .next t ∧
    finished s t ∧ t.obufBytes s.outPtr.toNat s.headerLength = s.headerBytes ∧
    t.outPtr.toNat = s.outPtr.toNat + s.headerLength ∧
    (∀ k, k < s.outPtr.toNat ∨ s.outPtr.toNat + s.headerLength ≤ k → t.obufAt k = s.obufAt k) ∧
    sameTables s t ∧ sameHostSide s t ∧ t.inPtr = s.inPtr

/-- WRHDR into too small an OBUF aborts with IO_OUT_OVF at the first byte that does not fit; the bytes before it stay (R160,
R77). -/
def Obligations.WrhdrOverflowKeepsPrefix : Prop :=
  ∀ (s : State) (k : Nat), s.cfg.legal = true → s.cfg.obufSize < s.outPtr.toNat + s.headerLength →
    k = s.cfg.obufSize - s.outPtr.toNat → ∃ t, exec .wrhdr s = .next t ∧ aborted s t .ioOutOvf t.outPtr ∧
    t.outPtr.toNat = s.outPtr.toNat + k ∧ t.obufBytes s.outPtr.toNat k = s.headerBytes.take k ∧
    (∀ j, j < s.outPtr.toNat ∨ s.outPtr.toNat + k ≤ j → t.obufAt j = s.obufAt j) ∧ sameTables s t

/-- R162: RDHDR of the header of a table with `n >= 1`, in the bytes of the format or as WRHDR writes them, succeeds,
reproduces the present symbols and their counts, leaves every absent symbol with count 0, and advances IN_PTR by `11 + 9n`. -/
def Obligations.RdhdrReadsHeaderBack : Prop :=
  ∀ s src : State, s.inputOk → 1 ≤ src.nsym → s.inPtr.toNat + src.headerLength ≤ s.inLen.toNat →
    (s.ibufBytes s.inPtr.toNat src.headerLength = src.headerBytes ∨
      ∃ w, src.cfg.legal = true ∧ src.err = false ∧ exec .wrhdr src = .next w ∧ w.err = false ∧
        s.ibufBytes s.inPtr.toNat src.headerLength = w.obufBytes src.outPtr.toNat src.headerLength) →
    ∃ t, exec .rdhdr s = .next t ∧ finished s t ∧
    (∀ sym : Byte, t.ftAt sym = if (src.ftAt sym).present = true then src.ftAt sym else FtEntry.absent) ∧
    t.inPtr.toNat = s.inPtr.toNat + src.headerLength ∧ t.treeValid = false ∧ t.codeValid = false ∧ sameOutput s t ∧
    sameHostSide s t

/-- The checks of RDHDR on the fixed part of the header, in the order they are made (R163, R270), the information word of each,
and the IN_PTR each leaves; the table is empty after each. -/
def Obligations.RdhdrRejectsBadHeaders : Prop :=
  ∀ s : State, s.inputOk → ∃ t, exec .rdhdr s = .next t ∧
    (s.inputLeft < 3 → aborted s t .idHdrTrunc s.inPtr ∧ t.inPtr = s.inPtr ∧ t.nsym = 0) ∧
    (3 ≤ s.inputLeft → s.ibufBytes s.inPtr.toNat 3 ≠ [0x53#8, 0x48#8, 0x46#8] →
      aborted s t .idBadMagic (BitVec.ofNat 32 (leNat (s.ibufBytes s.inPtr.toNat 3))) ∧ t.inPtr = s.inPtr + 3#32 ∧
        t.nsym = 0) ∧
    (s.ibufBytes s.inPtr.toNat 3 = [0x53#8, 0x48#8, 0x46#8] → 3 ≤ s.inputLeft →
      (s.inputLeft < 11 → aborted s t .idHdrTrunc (s.inPtr + 3#32) ∧ t.inPtr = s.inPtr + 3#32 ∧ t.nsym = 0) ∧
      (11 ≤ s.inputLeft → leNat (s.ibufBytes (s.inPtr.toNat + 3) 8) = 0 →
        aborted s t .idHdrEmpty 0#32 ∧ t.inPtr = s.inPtr + 11#32 ∧ t.nsym = 0) ∧
      (11 ≤ s.inputLeft → 256 < leNat (s.ibufBytes (s.inPtr.toNat + 3) 8) →
        aborted s t .idHdrRange (BitVec.ofNat 32 (leNat (s.ibufBytes (s.inPtr.toNat + 3) 8))) ∧
          t.inPtr = s.inPtr + 11#32 ∧ t.nsym = 0))

/-- The checks of RDHDR on the entries (R163, R270), after a good magic and a count of 1 to 256. When the first `i` entries have
distinct symbols and the input ends inside entry `i`, RDHDR aborts with ID_HDR_TRUNC and the offset of that entry, which is
where IN_PTR stays; when entry `i` repeats an earlier symbol, with ID_HDR_DUP and `{i[7:0], s}`, IN_PTR just past the entry.
Both keep the first `i` entries in the table and no other. -/
def Obligations.RdhdrRejectsBadEntries : Prop :=
  ∀ (s : State) (i : Nat), s.inputOk → s.ibufBytes s.inPtr.toNat 3 = [0x53#8, 0x48#8, 0x46#8] →
    i < leNat (s.ibufBytes (s.inPtr.toNat + 3) 8) → leNat (s.ibufBytes (s.inPtr.toNat + 3) 8) ≤ 256 →
    11 + 9 * i ≤ s.inputLeft → ((List.range i).map s.entrySym).Nodup →
    (s.inputLeft < 11 + 9 * (i + 1) → ∃ t, exec .rdhdr s = .next t ∧
      aborted s t .idHdrTrunc (s.inPtr + BitVec.ofNat 32 (11 + 9 * i)) ∧ t.inPtr = s.inPtr + BitVec.ofNat 32 (11 + 9 * i) ∧
      t.nsym = i ∧ ∀ j < i, t.ftAt (s.entrySym j) = { present := true, count := s.entryCount j }) ∧
    (11 + 9 * (i + 1) ≤ s.inputLeft → s.entrySym i ∈ (List.range i).map s.entrySym → ∃ t, exec .rdhdr s = .next t ∧
      aborted s t .idHdrDup ((0#16 ++ BitVec.ofNat 8 i ++ s.entrySym i : BitVec 32)) ∧
      t.inPtr = s.inPtr + BitVec.ofNat 32 (11 + 9 * (i + 1)) ∧ t.nsym = i ∧
      ∀ j < i, t.ftAt (s.entrySym j) = { present := true, count := s.entryCount j })

/-- R164, R122: after a successful RDHDR the table has `symbol_count` present symbols, 1 to 256, and IN_PTR is at the end of
the header, `p + 11 + 9n`. -/
def Obligations.RdhdrEndsAtHeaderEnd : Prop :=
  ∀ s t : State, s.err = false → s.inputOk → exec .rdhdr s = .next t → t.err = false →
    t.done = true ∧ t.nsym = leNat (s.ibufBytes (s.inPtr.toNat + 3) 8) ∧ 1 ≤ t.nsym ∧ t.nsym ≤ 256 ∧
    t.inPtr.toNat = s.inPtr.toNat + 11 + 9 * t.nsym ∧ t.inPtr.toNat ≤ s.inLen.toNat

/-! ### ENCODE -/

/-- R202: a successful ENCODE appends exactly the packed bits of R125 and R126 for the input from IN_PTR on, with the flush
policy of Z, and leaves IN_PTR = IN_LEN. It completes whenever every input byte has a code and the output fits. -/
def Obligations.EncodePacksCodes : Prop :=
  (∀ (z : Bool) (s t : State), s.cfg.legal = true → s.err = false → exec (.encode z) s = .next t → t.err = false →
    t.obufBytes s.outPtr.toNat (packedOutput z (s.messageBits s.inputBytes)).length =
        packedOutput z (s.messageBits s.inputBytes) ∧
      t.outPtr.toNat = s.outPtr.toNat + (packedOutput z (s.messageBits s.inputBytes)).length ∧ t.inPtr = s.inLen) ∧
  ∀ (z : Bool) (s : State) (out : List Byte), s.cfg.legal = true → s.inputOk → s.codeValid = true →
    (∀ b ∈ s.inputBytes, (codeAt s.codes b).has = true) → out = packedOutput z (s.messageBits s.inputBytes) →
    (out = [] ∨ s.outPtr.toNat + out.length ≤ s.cfg.obufSize) → ∃ t, exec (.encode z) s = .next t ∧ finished s t ∧
    t.obufBytes s.outPtr.toNat out.length = out ∧ t.outPtr.toNat = s.outPtr.toNat + out.length ∧ t.inPtr = s.inLen ∧
    (∀ k, k < s.outPtr.toNat ∨ s.outPtr.toNat + out.length ≤ k → t.obufAt k = s.obufAt k) ∧ sameTables s t ∧
    sameHostSide s t ∧ t.acc = 0#8 ∧ t.nacc = 0

/-- An input byte without a code aborts ENCODE with ID_NO_CODE and that byte's offset; the full bytes packed so far stay in
OBUF and the bits in the accumulator are lost (R200). -/
def Obligations.EncodeStopsAtUncodedByte : Prop :=
  ∀ (z : Bool) (s : State) (pre post : List Byte) (b : Byte), s.cfg.legal = true → s.inputOk → s.codeValid = true →
    s.inputBytes = pre ++ b :: post → (∀ a ∈ pre, (codeAt s.codes a).has = true) → (codeAt s.codes b).has = false →
    ((s.messageBits pre).length < 8 ∨ s.outPtr.toNat + (s.messageBits pre).length / 8 ≤ s.cfg.obufSize) →
    ∃ t, exec (.encode z) s = .next t ∧ aborted s t .idNoCode (s.inPtr + BitVec.ofNat 32 pre.length) ∧
    t.inPtr = s.inPtr + BitVec.ofNat 32 (pre.length + 1) ∧
    t.outPtr.toNat = s.outPtr.toNat + (s.messageBits pre).length / 8 ∧
    t.obufBytes s.outPtr.toNat ((s.messageBits pre).length / 8) =
      (packBits (s.messageBits pre)).take ((s.messageBits pre).length / 8)

/-- ENCODE whose output does not fit aborts with IO_OUT_OVF at the first byte that finds OBUF full; the bytes before it stay
(R77, R200, R201, R265). -/
def Obligations.EncodeOverflowKeepsPrefix : Prop :=
  ∀ (z : Bool) (s : State) (out : List Byte) (k : Nat), s.cfg.legal = true → s.inputOk → s.codeValid = true →
    (∀ b ∈ s.inputBytes, (codeAt s.codes b).has = true) → out = packedOutput z (s.messageBits s.inputBytes) → out ≠ [] →
    s.cfg.obufSize < s.outPtr.toNat + out.length → k = s.cfg.obufSize - s.outPtr.toNat → ∃ t, exec (.encode z) s = .next t ∧
    aborted s t .ioOutOvf t.outPtr ∧ t.outPtr.toNat = s.outPtr.toNat + k ∧
    t.obufBytes s.outPtr.toNat k = out.take k ∧
    (∀ j, j < s.outPtr.toNat ∨ s.outPtr.toNat + k ≤ j → t.obufAt j = s.obufAt j) ∧ sameTables s t ∧ sameHostSide s t

/-! ### DECODE -/

/-- R221: with a leaf root DECODE writes that leaf's symbol TOTAL times and reads no byte; when OBUF fills first it aborts with
IO_OUT_OVF. A total of 0 writes nothing, wherever OUT_PTR stands (R222). -/
def Obligations.DecodeRepeatsSingleSymbol : Prop :=
  ∀ s : State, s.cfg.legal = true → s.inputOk → s.treeValid = true → (nodeAt s.tree.nodes s.tree.root).leaf = true →
    s.ftTotal ≤ 2 ^ 64 - 1 →
    (s.ftTotal = 0 ∨ s.outPtr.toNat + s.ftTotal ≤ s.cfg.obufSize →
      ∃ t, exec .decode s = .next t ∧ finished s t ∧ t.inPtr = s.inPtr ∧
      t.outPtr.toNat = s.outPtr.toNat + s.ftTotal ∧
      t.obufBytes s.outPtr.toNat s.ftTotal = List.replicate s.ftTotal (nodeAt s.tree.nodes s.tree.root).sym ∧
      sameTables s t ∧ sameHostSide s t) ∧
    (s.ftTotal ≠ 0 → s.cfg.obufSize < s.outPtr.toNat + s.ftTotal →
      ∃ t, exec .decode s = .next t ∧ aborted s t .ioOutOvf t.outPtr ∧
      t.inPtr = s.inPtr ∧ t.outPtr.toNat = s.outPtr.toNat + (s.cfg.obufSize - s.outPtr.toNat) ∧
      t.obufBytes s.outPtr.toNat (s.cfg.obufSize - s.outPtr.toNat) =
        List.replicate (s.cfg.obufSize - s.outPtr.toNat) (nodeAt s.tree.nodes s.tree.root).sym)

/-- R222: a total of 0 emits nothing and reads nothing, with a leaf root or not. -/
def Obligations.DecodeOfNothingFinishes : Prop :=
  ∀ s : State, s.inputOk → s.treeValid = true → s.ftTotal = 0 → ∃ t, exec .decode s = .next t ∧ finished s t ∧
    sameOutput s t ∧ t.inPtr = s.inPtr ∧ sameTables s t ∧ sameHostSide s t

/-- R223: no packed byte at all, and symbols to come: ID_STREAM_TRUNC with 0 symbols emitted. -/
def Obligations.DecodeOfNoInputIsTruncated : Prop :=
  ∀ s : State, s.inputOk → s.treeValid = true → (nodeAt s.tree.nodes s.tree.root).leaf = false → s.ftTotal ≠ 0 →
    s.ftTotal ≤ 2 ^ 64 - 1 → s.inPtr = s.inLen → ∃ t, exec .decode s = .next t ∧ aborted s t .idStreamTrunc 0#32 ∧
    sameOutput s t ∧ t.inPtr = s.inPtr

/-- DECODE inverts the packing: for a valid tree with two or more leaves, packed bits of any message over its symbols whose
length is the total decode to that message, consuming just the packed bytes (R125, R127, R220, R222). -/
def Obligations.DecodeReadsMessageBack : Prop :=
  ∀ (s : State) (msg packed : List Byte), s.cfg.legal = true → s.inputOk → s.treeValid = true → s.treeOk → 2 ≤ s.nsym →
    msg.length = s.ftTotal → (∀ b ∈ msg, (s.ftAt b).present = true) → packed = packBits (msg.flatMap s.treeCode) →
    s.inPtr.toNat + packed.length ≤ s.inLen.toNat → s.ibufBytes s.inPtr.toNat packed.length = packed →
    (msg = [] ∨ s.outPtr.toNat + msg.length ≤ s.cfg.obufSize) → ∃ t, exec .decode s = .next t ∧ finished s t ∧
    t.obufBytes s.outPtr.toNat msg.length = msg ∧ t.outPtr.toNat = s.outPtr.toNat + msg.length ∧
    t.inPtr.toNat = s.inPtr.toNat + packed.length ∧
    (∀ k, k < s.outPtr.toNat ∨ s.outPtr.toNat + msg.length ≤ k → t.obufAt k = s.obufAt k) ∧ sameTables s t ∧
    sameHostSide s t

/-- DECODE that cannot go on keeps what it has written (R77, R220, R223, R265). When the input ends before TOTAL symbols, within a
code or between two, it aborts with ID_STREAM_TRUNC and the number of symbols written; when the next symbol finds OBUF full,
with IO_OUT_OVF, the byte that holds that symbol's last bit being the last one read. -/
def Obligations.DecodeAbortsKeepPrefix : Prop :=
  (∀ (s : State) (msg : List Byte) (rest : List Bool) (sym : Byte), s.cfg.legal = true → s.inputOk → s.treeValid = true →
    s.treeOk → 2 ≤ s.nsym → unpackBits s.inputBytes = msg.flatMap s.treeCode ++ rest →
    (∀ b ∈ msg, (s.ftAt b).present = true) → (s.ftAt sym).present = true → rest <+: s.treeCode sym →
    rest ≠ s.treeCode sym → msg.length < s.ftTotal → (msg = [] ∨ s.outPtr.toNat + msg.length ≤ s.cfg.obufSize) →
    ∃ t, exec .decode s = .next t ∧ aborted s t .idStreamTrunc (BitVec.ofNat 32 msg.length) ∧
      t.obufBytes s.outPtr.toNat msg.length = msg ∧ t.outPtr.toNat = s.outPtr.toNat + msg.length ∧ t.inPtr = s.inLen ∧
      (∀ k, k < s.outPtr.toNat ∨ s.outPtr.toNat + msg.length ≤ k → t.obufAt k = s.obufAt k) ∧ sameTables s t ∧
      sameHostSide s t) ∧
  ∀ (s : State) (msg : List Byte) (sym : Byte), s.cfg.legal = true → s.inputOk → s.treeValid = true → s.treeOk →
    2 ≤ s.nsym → (msg ++ [sym]).flatMap s.treeCode <+: unpackBits s.inputBytes →
    (∀ b ∈ msg, (s.ftAt b).present = true) → (s.ftAt sym).present = true → msg.length < s.ftTotal →
    msg.length = s.cfg.obufSize - s.outPtr.toNat →
    ∃ t, exec .decode s = .next t ∧ aborted s t .ioOutOvf t.outPtr ∧ t.obufBytes s.outPtr.toNat msg.length = msg ∧
      t.outPtr.toNat = s.outPtr.toNat + msg.length ∧
      t.inPtr.toNat = s.inPtr.toNat + (((msg ++ [sym]).flatMap s.treeCode).length + 7) / 8 ∧
      (∀ k, k < s.outPtr.toNat ∨ s.outPtr.toNat + msg.length ≤ k → t.obufAt k = s.obufAt k) ∧ sameTables s t ∧
      sameHostSide s t

/-! ### Whole operations -/

/-- COMPRESS completes on every non-empty input when OBUF has room for the archive (always so with `2315 + 32 * IN_LEN` bytes), and
what it writes from offset 0 on is the header of the input's table followed by the packed codes of the input (R242, R120, R128,
R316). -/
def Obligations.CompressWritesArchive : Prop :=
  ∀ (z : Bool) (s : State), s.cfg.legal = true → s.inEnSample = true → 1 ≤ s.inLen.toNat →
    s.inLen.toNat ≤ s.cfg.ibufSize →
    (2315 + 32 * s.inLen.toNat ≤ s.cfg.obufSize ∨
      ∃ c, codedFrom s c ∧ c.headerLength + (packedOutput z (c.messageBits (s.ibufBytes 0 s.inLen.toNat))).length ≤
        s.cfg.obufSize) →
    ∃ t, exec (.compress z) s = .next t ∧ finished s t ∧ t.treeValid = true ∧ t.codeValid = true ∧ t.treeOk ∧
    t.mergeOrderOk ∧ t.codesOk ∧ t.inPtr = s.inLen ∧
    (∀ sym : Byte, (t.ftAt sym).present = (s.ibufBytes 0 s.inLen.toNat).contains sym ∧
      (t.ftAt sym).count.toNat = (s.ibufBytes 0 s.inLen.toNat).count sym) ∧
    t.obufBytes 0 t.outPtr.toNat = t.headerBytes ++ packedOutput z (t.messageBits (s.ibufBytes 0 s.inLen.toNat)) ∧
    (∀ k, t.outPtr.toNat ≤ k → t.obufAt k = s.obufAt k) ∧ sameHostSide s t

/-- COMPRESS of an empty input raises ID_EMPTY_TABLE and writes nothing (R242). -/
def Obligations.CompressRefusesEmptyInput : Prop :=
  ∀ (z : Bool) (s : State), s.inEnSample = true → s.inLen = 0#32 → ∃ t, exec (.compress z) s = .next t ∧
    aborted s t .idEmptyTable 0#32 ∧ t.outPtr = 0#32 ∧ t.inPtr = 0#32 ∧ (∀ k, t.obufAt k = s.obufAt k) ∧ t.nsym = 0 ∧
    t.treeValid = false ∧ t.codeValid = false

/-- A whole operation is its step commands in sequence, when all of them succeed (R132, R240, R242, R243). -/
def Obligations.WholeOperationsAreTheirSteps : Prop :=
  (∀ (z : Bool) (s s1 s2 s3 s4 s5 : State), s.err = false → exec .count s.rewind = .next s1 → exec .build s1 = .next s2 →
    exec .codegen s2 = .next s3 → exec .wrhdr s3 = .next s4 → exec (.encode z) { s4 with inPtr := 0#32 } = .next s5 →
    s1.err = false → s2.err = false → s3.err = false → s4.err = false → s5.err = false →
    exec (.compress z) s = .next s5) ∧
  ∀ s s1 s2 s3 : State, s.err = false → exec .rdhdr s.rewind = .next s1 → exec .build s1 = .next s2 →
    exec .decode s2 = .next s3 → s1.err = false → s2.err = false → s3.err = false → exec .decompress s = .next s3

/-- DECOMPRESS completes on every archive of one symbol: the 20-byte header alone decides the output, and bytes after it are
not read (R124, R221, R243). -/
def Obligations.DecompressSingleSymbolArchive : Prop :=
  ∀ (s : State) (sym : Byte) (c : Count), s.cfg.legal = true → s.inEnSample = true → s.inLen.toNat ≤ s.cfg.ibufSize →
    20 ≤ s.inLen.toNat →
    s.ibufBytes 0 20 = [0x53#8, 0x48#8, 0x46#8] ++ leBytes8 1#64 ++ sym :: leBytes8 c →
    c.toNat ≤ s.cfg.obufSize → ∃ t, exec .decompress s = .next t ∧ finished s t ∧ t.treeValid = true ∧
    t.codeValid = false ∧ t.inPtr = 20#32 ∧ t.outPtr.toNat = c.toNat ∧
    t.obufBytes 0 c.toNat = List.replicate c.toNat sym ∧ (∀ k, c.toNat ≤ k → t.obufAt k = s.obufAt k) ∧
    sameHostSide s t

/-- DECOMPRESS completes on every archive of the format: the header of a table followed by the packed codes, under the tree BUILD
makes of that table, of any message over its symbols whose length is the total; the output is that message (R120, R125, R127,
R128, R243). -/
def Obligations.DecompressReadsArchive : Prop :=
  ∀ (s src built : State) (msg packed : List Byte), s.cfg.legal = true → s.inEnSample = true →
    s.inLen.toNat ≤ s.cfg.ibufSize → 1 ≤ src.nsym → src.ftTotal ≤ 2 ^ 64 - 1 → exec .build src = .next built →
    msg.length = src.ftTotal → (∀ b ∈ msg, (src.ftAt b).present = true) → packed = packBits (msg.flatMap built.treeCode) →
    src.headerLength + packed.length ≤ s.inLen.toNat →
    s.ibufBytes 0 (src.headerLength + packed.length) = src.headerBytes ++ packed → msg.length ≤ s.cfg.obufSize →
    ∃ t, exec .decompress s = .next t ∧ finished s t ∧ t.obufBytes 0 msg.length = msg ∧ t.outPtr.toNat = msg.length ∧
    t.inPtr.toNat = src.headerLength + packed.length ∧ t.treeValid = true ∧ t.codeValid = false ∧ t.treeOk ∧
    (∀ sym : Byte, t.ftAt sym = if (src.ftAt sym).present = true then src.ftAt sym else FtEntry.absent) ∧
    (∀ k, msg.length ≤ k → t.obufAt k = s.obufAt k) ∧ sameHostSide s t

/-- R225: DECOMPRESS of an archive that COMPRESS wrote gives the input back, for every non-empty input, when OBUF is large
enough; with Z = 1 it fails with ID_STREAM_TRUNC exactly in the case the rule excepts, a dropped last partial byte. -/
def Obligations.DecompressInvertsCompress : Prop :=
  ∀ (z : Bool) (s t u : State), s.cfg.legal = true → s.err = false → s.inEnSample = true → 1 ≤ s.inLen.toNat →
    s.inLen.toNat ≤ s.cfg.ibufSize → exec (.compress z) s = .next t → t.err = false →
    u.cfg.legal = true → u.inEnSample = true → u.inLen = t.outPtr → t.outPtr.toNat ≤ u.cfg.ibufSize →
    u.ibufBytes 0 t.outPtr.toNat = t.obufBytes 0 t.outPtr.toNat → s.inLen.toNat ≤ u.cfg.obufSize →
    ∃ v, exec .decompress u = .next v ∧
    (packedOutput z (t.messageBits (s.ibufBytes 0 s.inLen.toNat)) =
        packBits (t.messageBits (s.ibufBytes 0 s.inLen.toNat)) →
      finished u v ∧ v.outPtr = s.inLen ∧ v.obufBytes 0 s.inLen.toNat = s.ibufBytes 0 s.inLen.toNat) ∧
    (packedOutput z (t.messageBits (s.ibufBytes 0 s.inLen.toNat)) ≠
        packBits (t.messageBits (s.ibufBytes 0 s.inLen.toNat)) →
      aborted u v .idStreamTrunc v.outPtr)

/-- R244: COMPRESS of equal inputs with equal Z writes byte-identical archives, whatever the tables, the old output and the rest
of the state held. -/
def Obligations.CompressIsDeterministic : Prop :=
  ∀ (z : Bool) (s s' t t' : State), s.cfg = s'.cfg → s.cfg.legal = true → s.inEnSample = s'.inEnSample →
    s.inLen = s'.inLen → s.ibufBytes 0 s.inLen.toNat = s'.ibufBytes 0 s.inLen.toNat → s.err = false → s'.err = false →
    exec (.compress z) s = .next t → exec (.compress z) s' = .next t' →
    t.err = t'.err ∧ t.outPtr = t'.outPtr ∧ t.obufBytes 0 t.outPtr.toNat = t'.obufBytes 0 t.outPtr.toNat

/-! ### The host's accesses -/

/-- R264: acceptance of a command word while BUSY = 0 latches it, sets BUSY, clears DONE, ERR and the error record, so that IRQ
falls, leaves HERR, and raises CMD_ILLEGAL at once for an illegal word. -/
def Obligations.AcceptanceLatchesCommand : Prop :=
  ∀ (s t : State) (w : Word), s.busy = false → t = s.hostWrite 0x00000000#32 .word w →
    ((∃ i, decode w = .ok i) → t.seq = .run w .start ∧ t.busy = true ∧ t.done = false ∧ t.err = false ∧
      t.errCause = none ∧ t.errWord = 0#32 ∧ t.errInfo = 0#32 ∧ t.irq = false) ∧
    ((∀ i, decode w ≠ .ok i) → t.seq = .idle ∧ t.busy = false ∧ t.done = false ∧ t.err = true ∧
      t.errWord = 0x00000430#32 ∧ t.errInfo = w) ∧
    t.herr = s.herr ∧ t.ctrl = s.ctrl ∧ t.inLen = s.inLen ∧ t.inPtr = s.inPtr ∧ sameTables s t ∧ sameOutput s t ∧
    (∀ k, t.ibufAt k = s.ibufAt k)

/-- R32, R87: a command takes IN_EN as it stood at acceptance. The acceptance samples it, no host write while BUSY = 1 changes the
sample or the running command, and a command runs to the same end whatever CTRL holds while it runs. -/
def Obligations.CommandTakesInEnAtAcceptance : Prop :=
  (∀ (s : State) (w : Word) (i : Instr), s.busy = false → decode w = .ok i →
    (s.hostWrite 0x00000000#32 .word w).inEnSample = s.ctrl.inEn) ∧
  (∀ (s : State) (addr : Word) (size : Size) (w : Word), s.busy = true →
    (s.hostWrite addr size w).inEnSample = s.inEnSample ∧ (s.hostWrite addr size w).seq = s.seq) ∧
  ∀ (i : Instr) (s t : State) (c : Ctrl), exec i s = .next t → exec i { s with ctrl := c } = .next { t with ctrl := c }

/-- R26 to R28, R32, R45, R49, R51, R53: a host write of IN_LEN, a pointer, a selector (while BUSY = 0) or CTRL (in any state) stores
the datum, reserved bits read 0, and nothing else changes; a write to a read-only register is ignored and sets HERR, also while
BUSY = 1 (log 8). -/
def Obligations.RegisterWritesStore : Prop :=
  ∀ (s : State) (w : Word),
    (s.busy = false →
      s.hostWrite 0x00000014#32 .word w = { s with inLen := w } ∧
      s.hostWrite 0x00000018#32 .word w = { s with inPtr := w } ∧
      s.hostWrite 0x0000001C#32 .word w = { s with outPtr := w } ∧
      s.hostWrite 0x00000020#32 .word w = { s with ftSel := w.extractLsb' 0 8 } ∧
      s.hostWrite 0x00000040#32 .word w = { s with nodeSel := w.extractLsb' 0 9 } ∧
      s.hostWrite 0x00000060#32 .word w = { s with codeSel := w.extractLsb' 0 8 } ∧
      s.hostWrite 0x00000068#32 .word w = { s with codeWsel := w.extractLsb' 0 3 } ∧
      (s.hostWrite 0x00000014#32 .word w).readReg .inLen = w ∧
      (s.hostWrite 0x00000018#32 .word w).readReg .inPtr = w ∧
      (s.hostWrite 0x0000001C#32 .word w).readReg .outPtr = w ∧
      (s.hostWrite 0x00000020#32 .word w).readReg .ftSel = w &&& 0x000000FF#32 ∧
      (s.hostWrite 0x00000040#32 .word w).readReg .nodeSel = w &&& 0x000001FF#32 ∧
      (s.hostWrite 0x00000060#32 .word w).readReg .codeSel = w &&& 0x000000FF#32 ∧
      (s.hostWrite 0x00000068#32 .word w).readReg .codeWsel = w &&& 0x00000007#32) ∧
    s.hostWrite 0x00000008#32 .word w =
      { s with ctrl := { inEn := w.getLsbD 0, ieDone := w.getLsbD 1, ieErr := w.getLsbD 2 } } ∧
    (s.hostWrite 0x00000008#32 .word w).readReg .ctrl = w &&& 0x00000007#32 ∧
    ∀ a ∈ ([0x0C, 0x10, 0x30, 0x44, 0x48, 0x4C, 0x50, 0x54, 0x64, 0x6C] : List Word),
      s.hostWrite a .word w = { s with herr := true }

/-- R46, R47: a host write through the FT window changes the selected entry's presence bit, or one half of its count, and
nothing else of the table, and clears TREE_VALID and CODE_VALID. -/
def Obligations.FtWindowWritesEntry : Prop :=
  ∀ (s t : State) (w : Word), s.busy = false →
    s.readReg .ftPresent = (if (s.ftAt s.ftSel).present = true then 1#32 else 0#32) ∧
    (s.readReg .ftCntHi ++ s.readReg .ftCntLo : BitVec 64) = (s.ftAt s.ftSel).count ∧
    (t = s.hostWrite 0x00000024#32 .word w →
      (t.ftAt s.ftSel).present = w.getLsbD 0 ∧ (t.ftAt s.ftSel).count = (s.ftAt s.ftSel).count ∧
      t.readReg .ftPresent = (if w.getLsbD 0 = true then 1#32 else 0#32)) ∧
    (t = s.hostWrite 0x00000028#32 .word w →
      (t.ftAt s.ftSel).count.extractLsb' 0 32 = w ∧
      (t.ftAt s.ftSel).count.extractLsb' 32 32 = (s.ftAt s.ftSel).count.extractLsb' 32 32 ∧
      (t.ftAt s.ftSel).present = (s.ftAt s.ftSel).present ∧ t.readReg .ftCntLo = w) ∧
    (t = s.hostWrite 0x0000002C#32 .word w →
      (t.ftAt s.ftSel).count.extractLsb' 32 32 = w ∧
      (t.ftAt s.ftSel).count.extractLsb' 0 32 = (s.ftAt s.ftSel).count.extractLsb' 0 32 ∧
      (t.ftAt s.ftSel).present = (s.ftAt s.ftSel).present ∧ t.readReg .ftCntHi = w) ∧
    (t = s.hostWrite 0x00000024#32 .word w ∨ t = s.hostWrite 0x00000028#32 .word w ∨
        t = s.hostWrite 0x0000002C#32 .word w →
      t.treeValid = false ∧ t.codeValid = false ∧ (∀ a : Byte, a ≠ s.ftSel → t.ftAt a = s.ftAt a) ∧ t.herr = s.herr)

/-- R310: while BUSY = 1 a host write to CMD, a pointer, IN_LEN, a selector, the FT window or a buffer is ignored and sets HERR;
writes to STATUS and CTRL take effect. -/
def Obligations.BusyWritesAreRefused : Prop :=
  ∀ (s : State) (w : Word), s.busy = true →
    (∀ a ∈ ([0x00, 0x14, 0x18, 0x1C, 0x20, 0x24, 0x28, 0x2C, 0x40, 0x60, 0x68] : List Word),
      s.hostWrite a .word w = { s with herr := true }) ∧
    (∀ (addr : Word) (size : Size), 0x40000000 ≤ addr.toNat → s.hostWrite addr size w = { s with herr := true }) ∧
    s.hostWrite 0x00000004#32 .word w =
      { s with
        done := s.done && !w.getLsbD 1
        err := s.err && !w.getLsbD 2
        herr := s.herr && !w.getLsbD 3 } ∧
    s.hostWrite 0x00000008#32 .word w =
      { s with ctrl := { inEn := w.getLsbD 0, ieDone := w.getLsbD 1, ieErr := w.getLsbD 2 } }

/-- R82, R311: a host read has no side effect but HERR when it is erroneous; while BUSY = 1, STATUS and CTRL read exactly; while
BUSY = 0 every register reads its value, and an aligned read inside a buffer its bytes, little-endian (R74). That an erroneous
read returns 0 also while BUSY = 1 is the model's reading (log 8), and the numbering of the draws its own (log 7). -/
def Obligations.ReadsHaveNoSideEffects : Prop :=
  ∀ (s : State) (addr : Word) (size : Size), ∃ (v : Word) (n : Nat),
    (erroneousAccess s addr size → v = 0#32 ∧
      s.hostRead addr size = { s with herr := true, host := { s.host with readData := some v, draws := n } }) ∧
    (¬erroneousAccess s addr size →
      s.hostRead addr size = { s with host := { s.host with readData := some v, draws := n } }) ∧
    (s.busy = false → n = s.host.draws) ∧
    (addr = 0x00000004#32 → size = .word → v = s.statusWord) ∧ (addr = 0x00000008#32 → size = .word → v = s.ctrlWord) ∧
    (∀ r : Reg, s.busy = false → addr = BitVec.ofNat 32 r.offset → size = .word → v = s.readReg r) ∧
    (∀ i : Nat, s.busy = false → s.cfg.legal = true → i % size.bytes = 0 →
      (i + size.bytes ≤ s.cfg.ibufSize → addr = BitVec.ofNat 32 (0x40000000 + i) →
        v &&& size.mask = v ∧ ∀ j < size.bytes, v.extractLsb' (8 * j) 8 = s.ibufAt (i + j)) ∧
      (i + size.bytes ≤ s.cfg.obufSize → addr = BitVec.ofNat 32 (0x80000000 + i) →
        v &&& size.mask = v ∧ ∀ j < size.bytes, v.extractLsb' (8 * j) 8 = s.obufAt (i + j)))

/-- R73, R74: an erroneous write has no effect and an erroneous read returns 0; both set HERR and nothing else. That it is so
while BUSY = 1 too is the model's reading (log 8). -/
def Obligations.ErroneousAccessesSetHerr : Prop :=
  ∀ (s : State) (addr : Word) (size : Size), erroneousAccess s addr size →
    (∀ w : Word, s.hostWrite addr size w = { s with herr := true }) ∧
    s.hostRead addr size = { s with herr := true, host := { s.host with readData := some 0#32 } }

/-- R74, R79: while BUSY = 0 an aligned access inside a buffer stores its bytes little-endian, leaves every other byte alone,
and reads back what was written. -/
def Obligations.BufferAccessesReadBack : Prop :=
  ∀ (s t : State) (size : Size) (i : Nat) (w : Word), s.cfg.legal = true → s.busy = false → i % size.bytes = 0 →
    (i + size.bytes ≤ s.cfg.ibufSize → t = s.hostWrite (BitVec.ofNat 32 (0x40000000 + i)) size w →
      (∀ j < size.bytes, t.ibufAt (i + j) = w.extractLsb' (8 * j) 8) ∧
      (∀ k, k < i ∨ i + size.bytes ≤ k → t.ibufAt k = s.ibufAt k) ∧ (∀ k, t.obufAt k = s.obufAt k) ∧
      (t.hostRead (BitVec.ofNat 32 (0x40000000 + i)) size).host.readData = some (w &&& size.mask)) ∧
    (i + size.bytes ≤ s.cfg.obufSize → t = s.hostWrite (BitVec.ofNat 32 (0x80000000 + i)) size w →
      (∀ j < size.bytes, t.obufAt (i + j) = w.extractLsb' (8 * j) 8) ∧
      (∀ k, k < i ∨ i + size.bytes ≤ k → t.obufAt k = s.obufAt k) ∧ (∀ k, t.ibufAt k = s.ibufAt k) ∧
      (t.hostRead (BitVec.ofNat 32 (0x80000000 + i)) size).host.readData = some (w &&& size.mask))

/-- R30, R33: the bits of STATUS, the interrupt line, and the write-1-to-clear of STATUS. -/
def Obligations.StatusShowsFlagsAndIrq : Prop :=
  ∀ s : State,
    s.statusWord.getLsbD 0 = s.busy ∧ s.statusWord.getLsbD 1 = s.done ∧ s.statusWord.getLsbD 2 = s.err ∧
    s.statusWord.getLsbD 3 = s.herr ∧ s.statusWord.getLsbD 4 = s.treeValid ∧ s.statusWord.getLsbD 5 = s.codeValid ∧
    s.statusWord.getLsbD 6 = ((s.done && s.ctrl.ieDone) || (s.err && s.ctrl.ieErr)) ∧ s.statusWord >>> 7 = 0#32 ∧
    (s.busy = true ↔ s.seq ≠ .idle) ∧
    ∀ w : Word, s.hostWrite 0x00000004#32 .word w =
      { s with
        done := s.done && !w.getLsbD 1
        err := s.err && !w.getLsbD 2
        herr := s.herr && !w.getLsbD 3 }

/-- R50, R52: the table windows read 0 when what they show is invalid, and otherwise show the selected node and code. -/
def Obligations.TableWindowsShowTables : Prop :=
  ∀ s : State,
    (s.treeValid = false → s.readReg .treeInfo = 0#32) ∧
    (s.treeValid = false ∨ s.tree.count.val ≤ s.nodeSel.toNat →
      s.readReg .nodeInfo = 0#32 ∧ s.readReg .nodeLinks = 0#32 ∧ s.readReg .nodeWLo = 0#32 ∧
      s.readReg .nodeWHi = 0#32) ∧
    (s.treeValid = true → (s.readReg .treeInfo).extractLsb' 0 9 = BitVec.ofNat 9 s.tree.root.val ∧
      (s.readReg .treeInfo).extractLsb' 16 10 = BitVec.ofNat 10 s.tree.count.val) ∧
    (s.treeValid = true → (s.readReg .treeInfo).extractLsb' 9 7 = 0#7 ∧ (s.readReg .treeInfo).extractLsb' 26 6 = 0#6) ∧
    (s.treeValid = true → s.nodeSel.toNat < s.tree.count.val →
      (s.readReg .nodeInfo).extractLsb' 8 8 =
        (if (s.node s.nodeSel.toNat).leaf = true then (s.node s.nodeSel.toNat).sym else 0#8) ∧
      (s.readReg .nodeInfo).extractLsb' 16 9 =
        (if (s.node s.nodeSel.toNat).hasp = true then BitVec.ofNat 9 (s.node s.nodeSel.toNat).parent.val else 0#9) ∧
      (s.readReg .nodeInfo).extractLsb' 3 5 = 0#5 ∧ (s.readReg .nodeInfo).extractLsb' 25 7 = 0#7 ∧
      (s.readReg .nodeLinks).extractLsb' 0 9 =
        (if (s.node s.nodeSel.toNat).leaf = true then 0#9 else BitVec.ofNat 9 (s.node s.nodeSel.toNat).left.val) ∧
      (s.readReg .nodeLinks).extractLsb' 16 9 =
        (if (s.node s.nodeSel.toNat).leaf = true then 0#9 else BitVec.ofNat 9 (s.node s.nodeSel.toNat).right.val) ∧
      (s.readReg .nodeLinks).extractLsb' 9 7 = 0#7 ∧ (s.readReg .nodeLinks).extractLsb' 25 7 = 0#7) ∧
    (s.treeValid = true → s.nodeSel.toNat < s.tree.count.val →
      (s.readReg .nodeInfo).getLsbD 0 = true ∧ (s.readReg .nodeInfo).getLsbD 1 = (s.node s.nodeSel.toNat).leaf ∧
      (s.readReg .nodeInfo).getLsbD 2 = (s.node s.nodeSel.toNat).hasp ∧
      (s.readReg .nodeWHi ++ s.readReg .nodeWLo : BitVec 64) = (s.node s.nodeSel.toNat).w) ∧
    (s.codeValid = false → s.readReg .codeInfo = 0#32 ∧ s.readReg .codeWord = 0#32) ∧
    (s.codeValid = true → (s.readReg .codeInfo).extractLsb' 1 7 = 0#7 ∧ (s.readReg .codeInfo).extractLsb' 16 16 = 0#16 ∧
      (s.readReg .codeInfo).getLsbD 0 = (codeAt s.codes s.codeSel).has ∧
      (s.readReg .codeInfo).extractLsb' 8 8 = (codeAt s.codes s.codeSel).len ∧
      ∀ j < 32, (s.readReg .codeWord).getLsbD j =
        (codeAt s.codes s.codeSel).bits.getLsbD (32 * s.codeWsel.toNat + j))
end

