-- ==== Sys2Proof/Laws/Memory.lean ====
section
/-! SUPPORT. The laws of the buffers: read after write, and that every operation keeps the canonical form, in which equal
contents are equal lists. -/

namespace Sys2Proof.Machine

@[simp] theorem Memory.get?_nil (i : Nat) : Memory.get? [] i = none := rfl

/-- A read after a write to the same offset gives the byte written. -/
theorem Memory.get?_put_same (m : Memory) (i : Nat) (v : Byte) : (m.put i v).get? i = some v := by
  induction m with
  | nil => simp [Memory.put, Memory.get?]
  | cons c m ih =>
    obtain ⟨a, b⟩ := c
    simp only [Memory.put]
    split
    · simp [Memory.get?]
    · split
      · simp [Memory.get?]
      · simp [Memory.get?, *]

/-- A write leaves every other offset alone. -/
theorem Memory.get?_put_other (m : Memory) (i j : Nat) (v : Byte) (h : j ≠ i) : (m.put i v).get? j = m.get? j := by
  induction m with
  | nil => simp [Memory.put, Memory.get?, h]
  | cons c m ih =>
    obtain ⟨a, b⟩ := c
    simp only [Memory.put]
    split
    · simp [Memory.get?, h]
    · split
      next h1 h2 => subst h2; simp [Memory.get?, h]
      next => simp only [Memory.get?, ih]

/-- Every entry after a write is the one written or an old one. -/
theorem Memory.mem_put (m : Memory) (i : Nat) (v : Byte) (c : Host.Cell) (h : c ∈ m.put i v) : c = (i, v) ∨ c ∈ m := by
  induction m with
  | nil => simpa [Memory.put] using h
  | cons d m ih =>
    obtain ⟨a, b⟩ := d
    simp only [Memory.put] at h
    split at h
    · simpa using h
    · split at h
      · rcases List.mem_cons.1 h with h | h
        · exact .inl h
        · exact .inr (List.mem_cons_of_mem _ h)
      · rcases List.mem_cons.1 h with h | h
        · exact .inr (h ▸ List.mem_cons_self)
        · exact (ih h).imp id (List.mem_cons_of_mem _)

/-- A write keeps the canonical form. -/
theorem Memory.put_wf (m : Memory) (i : Nat) (v : Byte) (h : m.wf) : (m.put i v).wf := by
  induction m with
  | nil => simp [Memory.put]
  | cons d m ih =>
    obtain ⟨a, b⟩ := d
    obtain ⟨h1, h2⟩ := List.pairwise_cons.1 h
    simp only [Memory.put]
    split
    next hia =>
      refine List.pairwise_cons.2 ⟨fun c hc => ?_, h⟩
      rcases List.mem_cons.1 hc with rfl | hc
      · exact hia
      · exact Nat.lt_trans hia (h1 c hc)
    next hia =>
      split
      next he => subst he; exact List.pairwise_cons.2 ⟨h1, h2⟩
      next he =>
        refine List.pairwise_cons.2 ⟨fun c hc => ?_, ih h2⟩
        rcases Memory.mem_put m i v c hc with rfl | hc
        · show a < i
          omega
        · exact h1 c hc

/-- In a canonical list whose offsets all lie above `i`, offset `i` is unlisted. -/
theorem Memory.get?_below (m : Memory) (i : Nat) (h : ∀ c ∈ m, i < c.1) : m.get? i = none := by
  induction m with
  | nil => rfl
  | cons d m ih =>
    obtain ⟨a, b⟩ := d
    have ha : i < a := h (a, b) List.mem_cons_self
    simp only [Memory.get?]
    rw [if_neg (by omega)]
    exact ih fun c hc => h c (List.mem_cons_of_mem _ hc)

/-- Equal contents are equal lists: the canonical form is one form per contents. -/
theorem Memory.eq_of_get?_eq : ∀ (m m' : Memory), m.wf → m'.wf → (∀ i, m.get? i = m'.get? i) → m = m'
  | [], [], _, _, _ => rfl
  | [], (a, b) :: m', _, _, h => by simpa [Memory.get?] using h a
  | (a, b) :: m, [], _, _, h => by simpa [Memory.get?] using h a
  | (a, b) :: m, (a', b') :: m', hw, hw', h => by
    obtain ⟨h1, h2⟩ := List.pairwise_cons.1 hw
    obtain ⟨h1', h2'⟩ := List.pairwise_cons.1 hw'
    have ha : a = a' := by
      rcases Nat.lt_trichotomy a a' with hl | he | hl
      · have hb := Memory.get?_below ((a', b') :: m') a (fun c hc => by
          rcases List.mem_cons.1 hc with rfl | hc
          · exact hl
          · exact Nat.lt_trans hl (h1' c hc))
        have := h a
        rw [hb] at this
        simp [Memory.get?] at this
      · exact he
      · have hb := Memory.get?_below ((a, b) :: m) a' (fun c hc => by
          rcases List.mem_cons.1 hc with rfl | hc
          · exact hl
          · exact Nat.lt_trans hl (h1 c hc))
        have := h a'
        rw [hb] at this
        simp [Memory.get?] at this
    subst ha
    have hb : b = b' := by simpa [Memory.get?] using h a
    subst hb
    have hm : m = m' := Memory.eq_of_get?_eq m m' h2 h2' fun i => by
      by_cases hi : i = a
      · subst hi
        rw [Memory.get?_below m i h1, Memory.get?_below m' i h1']
      · simpa [Memory.get?, hi] using h i
    rw [hm]

/-- The canonical form on an example, and its absence. -/
theorem Memory.wf_example : Memory.wf [(1, 5), (3, 4)] ∧ ¬Memory.wf [(3, 4), (1, 5)] := by decide

end Sys2Proof.Machine
end

