-- ==== Sys2Proof/Laws/State.lean ====
section
/-! SUPPORT. One lemma per field per update of State, each true by unfolding the update once, so that no later proof unfolds a
record update. -/

namespace Sys2Proof.Machine

/-! ### State.raise -/

@[simp] theorem State.raise_cfg (s : State) (c : Cause) (info : Word) : (s.raise c info).cfg = s.cfg := rfl

@[simp] theorem State.raise_rst (s : State) (c : Cause) (info : Word) : (s.raise c info).rst = s.rst := rfl

@[simp] theorem State.raise_seq (s : State) (c : Cause) (info : Word) : (s.raise c info).seq = .idle := rfl

@[simp] theorem State.raise_done (s : State) (c : Cause) (info : Word) : (s.raise c info).done = s.done := rfl

@[simp] theorem State.raise_err (s : State) (c : Cause) (info : Word) : (s.raise c info).err = true := rfl

@[simp] theorem State.raise_herr (s : State) (c : Cause) (info : Word) : (s.raise c info).herr = s.herr := rfl

@[simp] theorem State.raise_treeValid (s : State) (c : Cause) (info : Word) : (s.raise c info).treeValid = s.treeValid := rfl

@[simp] theorem State.raise_codeValid (s : State) (c : Cause) (info : Word) : (s.raise c info).codeValid = s.codeValid := rfl

@[simp] theorem State.raise_ctrl (s : State) (c : Cause) (info : Word) : (s.raise c info).ctrl = s.ctrl := rfl

@[simp] theorem State.raise_inEnSample (s : State) (c : Cause) (info : Word) : (s.raise c info).inEnSample = s.inEnSample := rfl

@[simp] theorem State.raise_errCause (s : State) (c : Cause) (info : Word) : (s.raise c info).errCause = some c := rfl

@[simp] theorem State.raise_errInfo (s : State) (c : Cause) (info : Word) : (s.raise c info).errInfo = info := rfl

@[simp] theorem State.raise_inLen (s : State) (c : Cause) (info : Word) : (s.raise c info).inLen = s.inLen := rfl

@[simp] theorem State.raise_inPtr (s : State) (c : Cause) (info : Word) : (s.raise c info).inPtr = s.inPtr := rfl

@[simp] theorem State.raise_outPtr (s : State) (c : Cause) (info : Word) : (s.raise c info).outPtr = s.outPtr := rfl

@[simp] theorem State.raise_ftSel (s : State) (c : Cause) (info : Word) : (s.raise c info).ftSel = s.ftSel := rfl

@[simp] theorem State.raise_nodeSel (s : State) (c : Cause) (info : Word) : (s.raise c info).nodeSel = s.nodeSel := rfl

@[simp] theorem State.raise_codeSel (s : State) (c : Cause) (info : Word) : (s.raise c info).codeSel = s.codeSel := rfl

@[simp] theorem State.raise_codeWsel (s : State) (c : Cause) (info : Word) : (s.raise c info).codeWsel = s.codeWsel := rfl

@[simp] theorem State.raise_ft (s : State) (c : Cause) (info : Word) : (s.raise c info).ft = s.ft := rfl

@[simp] theorem State.raise_tree (s : State) (c : Cause) (info : Word) : (s.raise c info).tree = s.tree := rfl

@[simp] theorem State.raise_codes (s : State) (c : Cause) (info : Word) : (s.raise c info).codes = s.codes := rfl

@[simp] theorem State.raise_ibuf (s : State) (c : Cause) (info : Word) : (s.raise c info).ibuf = s.ibuf := rfl

@[simp] theorem State.raise_obuf (s : State) (c : Cause) (info : Word) : (s.raise c info).obuf = s.obuf := rfl

@[simp] theorem State.raise_acc (s : State) (c : Cause) (info : Word) : (s.raise c info).acc = s.acc := rfl

@[simp] theorem State.raise_nacc (s : State) (c : Cause) (info : Word) : (s.raise c info).nacc = s.nacc := rfl

@[simp] theorem State.raise_walk (s : State) (c : Cause) (info : Word) : (s.raise c info).walk = s.walk := rfl

@[simp] theorem State.raise_mergeQ (s : State) (c : Cause) (info : Word) : (s.raise c info).mergeQ = s.mergeQ := rfl

@[simp] theorem State.raise_host (s : State) (c : Cause) (info : Word) : (s.raise c info).host = { s.host with turns := 0 } := rfl

@[simp] theorem State.raise_epoch (s : State) (c : Cause) (info : Word) : (s.raise c info).epoch = s.epoch := rfl

/-! ### State.finish -/

@[simp] theorem State.finish_cfg (s : State) : (s.finish).cfg = s.cfg := rfl

@[simp] theorem State.finish_rst (s : State) : (s.finish).rst = s.rst := rfl

@[simp] theorem State.finish_seq (s : State) : (s.finish).seq = .idle := rfl

@[simp] theorem State.finish_done (s : State) : (s.finish).done = true := rfl

@[simp] theorem State.finish_err (s : State) : (s.finish).err = s.err := rfl

@[simp] theorem State.finish_herr (s : State) : (s.finish).herr = s.herr := rfl

@[simp] theorem State.finish_treeValid (s : State) : (s.finish).treeValid = s.treeValid := rfl

@[simp] theorem State.finish_codeValid (s : State) : (s.finish).codeValid = s.codeValid := rfl

@[simp] theorem State.finish_ctrl (s : State) : (s.finish).ctrl = s.ctrl := rfl

@[simp] theorem State.finish_inEnSample (s : State) : (s.finish).inEnSample = s.inEnSample := rfl

@[simp] theorem State.finish_errCause (s : State) : (s.finish).errCause = s.errCause := rfl

@[simp] theorem State.finish_errInfo (s : State) : (s.finish).errInfo = s.errInfo := rfl

@[simp] theorem State.finish_inLen (s : State) : (s.finish).inLen = s.inLen := rfl

@[simp] theorem State.finish_inPtr (s : State) : (s.finish).inPtr = s.inPtr := rfl

@[simp] theorem State.finish_outPtr (s : State) : (s.finish).outPtr = s.outPtr := rfl

@[simp] theorem State.finish_ftSel (s : State) : (s.finish).ftSel = s.ftSel := rfl

@[simp] theorem State.finish_nodeSel (s : State) : (s.finish).nodeSel = s.nodeSel := rfl

@[simp] theorem State.finish_codeSel (s : State) : (s.finish).codeSel = s.codeSel := rfl

@[simp] theorem State.finish_codeWsel (s : State) : (s.finish).codeWsel = s.codeWsel := rfl

@[simp] theorem State.finish_ft (s : State) : (s.finish).ft = s.ft := rfl

@[simp] theorem State.finish_tree (s : State) : (s.finish).tree = s.tree := rfl

@[simp] theorem State.finish_codes (s : State) : (s.finish).codes = s.codes := rfl

@[simp] theorem State.finish_ibuf (s : State) : (s.finish).ibuf = s.ibuf := rfl

@[simp] theorem State.finish_obuf (s : State) : (s.finish).obuf = s.obuf := rfl

@[simp] theorem State.finish_acc (s : State) : (s.finish).acc = s.acc := rfl

@[simp] theorem State.finish_nacc (s : State) : (s.finish).nacc = s.nacc := rfl

@[simp] theorem State.finish_walk (s : State) : (s.finish).walk = s.walk := rfl

@[simp] theorem State.finish_mergeQ (s : State) : (s.finish).mergeQ = s.mergeQ := rfl

@[simp] theorem State.finish_host (s : State) : (s.finish).host = { s.host with turns := 0 } := rfl

@[simp] theorem State.finish_epoch (s : State) : (s.finish).epoch = s.epoch := rfl

/-! ### State.latch -/

@[simp] theorem State.latch_cfg (s : State) (w : Word) : (s.latch w).cfg = s.cfg := rfl

@[simp] theorem State.latch_rst (s : State) (w : Word) : (s.latch w).rst = s.rst := rfl

@[simp] theorem State.latch_seq (s : State) (w : Word) : (s.latch w).seq = .run w .start := rfl

@[simp] theorem State.latch_done (s : State) (w : Word) : (s.latch w).done = false := rfl

@[simp] theorem State.latch_err (s : State) (w : Word) : (s.latch w).err = false := rfl

@[simp] theorem State.latch_herr (s : State) (w : Word) : (s.latch w).herr = s.herr := rfl

@[simp] theorem State.latch_treeValid (s : State) (w : Word) : (s.latch w).treeValid = s.treeValid := rfl

@[simp] theorem State.latch_codeValid (s : State) (w : Word) : (s.latch w).codeValid = s.codeValid := rfl

@[simp] theorem State.latch_ctrl (s : State) (w : Word) : (s.latch w).ctrl = s.ctrl := rfl

@[simp] theorem State.latch_inEnSample (s : State) (w : Word) : (s.latch w).inEnSample = s.inEnSample := rfl

@[simp] theorem State.latch_errCause (s : State) (w : Word) : (s.latch w).errCause = none := rfl

@[simp] theorem State.latch_errInfo (s : State) (w : Word) : (s.latch w).errInfo = 0 := rfl

@[simp] theorem State.latch_inLen (s : State) (w : Word) : (s.latch w).inLen = s.inLen := rfl

@[simp] theorem State.latch_inPtr (s : State) (w : Word) : (s.latch w).inPtr = s.inPtr := rfl

@[simp] theorem State.latch_outPtr (s : State) (w : Word) : (s.latch w).outPtr = s.outPtr := rfl

@[simp] theorem State.latch_ftSel (s : State) (w : Word) : (s.latch w).ftSel = s.ftSel := rfl

@[simp] theorem State.latch_nodeSel (s : State) (w : Word) : (s.latch w).nodeSel = s.nodeSel := rfl

@[simp] theorem State.latch_codeSel (s : State) (w : Word) : (s.latch w).codeSel = s.codeSel := rfl

@[simp] theorem State.latch_codeWsel (s : State) (w : Word) : (s.latch w).codeWsel = s.codeWsel := rfl

@[simp] theorem State.latch_ft (s : State) (w : Word) : (s.latch w).ft = s.ft := rfl

@[simp] theorem State.latch_tree (s : State) (w : Word) : (s.latch w).tree = s.tree := rfl

@[simp] theorem State.latch_codes (s : State) (w : Word) : (s.latch w).codes = s.codes := rfl

@[simp] theorem State.latch_ibuf (s : State) (w : Word) : (s.latch w).ibuf = s.ibuf := rfl

@[simp] theorem State.latch_obuf (s : State) (w : Word) : (s.latch w).obuf = s.obuf := rfl

@[simp] theorem State.latch_acc (s : State) (w : Word) : (s.latch w).acc = s.acc := rfl

@[simp] theorem State.latch_nacc (s : State) (w : Word) : (s.latch w).nacc = s.nacc := rfl

@[simp] theorem State.latch_walk (s : State) (w : Word) : (s.latch w).walk = s.walk := rfl

@[simp] theorem State.latch_mergeQ (s : State) (w : Word) : (s.latch w).mergeQ = s.mergeQ := rfl

@[simp] theorem State.latch_host (s : State) (w : Word) : (s.latch w).host = { s.host with turns := Config.hostTurns s.host.draws, draws := s.host.draws + 1 } := rfl

@[simp] theorem State.latch_epoch (s : State) (w : Word) : (s.latch w).epoch = s.epoch := rfl

/-! ### State.latched -/

@[simp] theorem State.latched_cfg (s : State) (w : Word) : (s.latched w).cfg = s.cfg := rfl

@[simp] theorem State.latched_rst (s : State) (w : Word) : (s.latched w).rst = false := rfl

@[simp] theorem State.latched_seq (s : State) (w : Word) : (s.latched w).seq = .run w .start := rfl

@[simp] theorem State.latched_done (s : State) (w : Word) : (s.latched w).done = false := rfl

@[simp] theorem State.latched_err (s : State) (w : Word) : (s.latched w).err = false := rfl

@[simp] theorem State.latched_herr (s : State) (w : Word) : (s.latched w).herr = s.herr := rfl

@[simp] theorem State.latched_treeValid (s : State) (w : Word) : (s.latched w).treeValid = s.treeValid := rfl

@[simp] theorem State.latched_codeValid (s : State) (w : Word) : (s.latched w).codeValid = s.codeValid := rfl

@[simp] theorem State.latched_ctrl (s : State) (w : Word) : (s.latched w).ctrl = s.ctrl := rfl

@[simp] theorem State.latched_inEnSample (s : State) (w : Word) : (s.latched w).inEnSample = s.ctrl.inEn := rfl

@[simp] theorem State.latched_errCause (s : State) (w : Word) : (s.latched w).errCause = none := rfl

@[simp] theorem State.latched_errInfo (s : State) (w : Word) : (s.latched w).errInfo = 0 := rfl

@[simp] theorem State.latched_inLen (s : State) (w : Word) : (s.latched w).inLen = s.inLen := rfl

@[simp] theorem State.latched_inPtr (s : State) (w : Word) : (s.latched w).inPtr = s.inPtr := rfl

@[simp] theorem State.latched_outPtr (s : State) (w : Word) : (s.latched w).outPtr = s.outPtr := rfl

@[simp] theorem State.latched_ftSel (s : State) (w : Word) : (s.latched w).ftSel = s.ftSel := rfl

@[simp] theorem State.latched_nodeSel (s : State) (w : Word) : (s.latched w).nodeSel = s.nodeSel := rfl

@[simp] theorem State.latched_codeSel (s : State) (w : Word) : (s.latched w).codeSel = s.codeSel := rfl

@[simp] theorem State.latched_codeWsel (s : State) (w : Word) : (s.latched w).codeWsel = s.codeWsel := rfl

@[simp] theorem State.latched_ft (s : State) (w : Word) : (s.latched w).ft = s.ft := rfl

@[simp] theorem State.latched_tree (s : State) (w : Word) : (s.latched w).tree = s.tree := rfl

@[simp] theorem State.latched_codes (s : State) (w : Word) : (s.latched w).codes = s.codes := rfl

@[simp] theorem State.latched_ibuf (s : State) (w : Word) : (s.latched w).ibuf = s.ibuf := rfl

@[simp] theorem State.latched_obuf (s : State) (w : Word) : (s.latched w).obuf = s.obuf := rfl

@[simp] theorem State.latched_acc (s : State) (w : Word) : (s.latched w).acc = s.acc := rfl

@[simp] theorem State.latched_nacc (s : State) (w : Word) : (s.latched w).nacc = s.nacc := rfl

@[simp] theorem State.latched_walk (s : State) (w : Word) : (s.latched w).walk = s.walk := rfl

@[simp] theorem State.latched_mergeQ (s : State) (w : Word) : (s.latched w).mergeQ = s.mergeQ := rfl

@[simp] theorem State.latched_host (s : State) (w : Word) : (s.latched w).host = { s.host with turns := 0 } := rfl

@[simp] theorem State.latched_epoch (s : State) (w : Word) : (s.latched w).epoch = s.epoch := rfl

/-! ### State.clearFt -/

@[simp] theorem State.clearFt_cfg (s : State) : (s.clearFt).cfg = s.cfg := rfl

@[simp] theorem State.clearFt_rst (s : State) : (s.clearFt).rst = s.rst := rfl

@[simp] theorem State.clearFt_seq (s : State) : (s.clearFt).seq = s.seq := rfl

@[simp] theorem State.clearFt_done (s : State) : (s.clearFt).done = s.done := rfl

@[simp] theorem State.clearFt_err (s : State) : (s.clearFt).err = s.err := rfl

@[simp] theorem State.clearFt_herr (s : State) : (s.clearFt).herr = s.herr := rfl

@[simp] theorem State.clearFt_treeValid (s : State) : (s.clearFt).treeValid = false := rfl

@[simp] theorem State.clearFt_codeValid (s : State) : (s.clearFt).codeValid = false := rfl

@[simp] theorem State.clearFt_ctrl (s : State) : (s.clearFt).ctrl = s.ctrl := rfl

@[simp] theorem State.clearFt_inEnSample (s : State) : (s.clearFt).inEnSample = s.inEnSample := rfl

@[simp] theorem State.clearFt_errCause (s : State) : (s.clearFt).errCause = s.errCause := rfl

@[simp] theorem State.clearFt_errInfo (s : State) : (s.clearFt).errInfo = s.errInfo := rfl

@[simp] theorem State.clearFt_inLen (s : State) : (s.clearFt).inLen = s.inLen := rfl

@[simp] theorem State.clearFt_inPtr (s : State) : (s.clearFt).inPtr = s.inPtr := rfl

@[simp] theorem State.clearFt_outPtr (s : State) : (s.clearFt).outPtr = s.outPtr := rfl

@[simp] theorem State.clearFt_ftSel (s : State) : (s.clearFt).ftSel = s.ftSel := rfl

@[simp] theorem State.clearFt_nodeSel (s : State) : (s.clearFt).nodeSel = s.nodeSel := rfl

@[simp] theorem State.clearFt_codeSel (s : State) : (s.clearFt).codeSel = s.codeSel := rfl

@[simp] theorem State.clearFt_codeWsel (s : State) : (s.clearFt).codeWsel = s.codeWsel := rfl

@[simp] theorem State.clearFt_ft (s : State) : (s.clearFt).ft = Vector.replicate 256 FtEntry.absent := rfl

@[simp] theorem State.clearFt_tree (s : State) : (s.clearFt).tree = s.tree := rfl

@[simp] theorem State.clearFt_codes (s : State) : (s.clearFt).codes = s.codes := rfl

@[simp] theorem State.clearFt_ibuf (s : State) : (s.clearFt).ibuf = s.ibuf := rfl

@[simp] theorem State.clearFt_obuf (s : State) : (s.clearFt).obuf = s.obuf := rfl

@[simp] theorem State.clearFt_acc (s : State) : (s.clearFt).acc = s.acc := rfl

@[simp] theorem State.clearFt_nacc (s : State) : (s.clearFt).nacc = s.nacc := rfl

@[simp] theorem State.clearFt_walk (s : State) : (s.clearFt).walk = s.walk := rfl

@[simp] theorem State.clearFt_mergeQ (s : State) : (s.clearFt).mergeQ = s.mergeQ := rfl

@[simp] theorem State.clearFt_host (s : State) : (s.clearFt).host = s.host := rfl

@[simp] theorem State.clearFt_epoch (s : State) : (s.clearFt).epoch = s.epoch := rfl

/-! ### State.invalidateTree -/

@[simp] theorem State.invalidateTree_cfg (s : State) : (s.invalidateTree).cfg = s.cfg := rfl

@[simp] theorem State.invalidateTree_rst (s : State) : (s.invalidateTree).rst = s.rst := rfl

@[simp] theorem State.invalidateTree_seq (s : State) : (s.invalidateTree).seq = s.seq := rfl

@[simp] theorem State.invalidateTree_done (s : State) : (s.invalidateTree).done = s.done := rfl

@[simp] theorem State.invalidateTree_err (s : State) : (s.invalidateTree).err = s.err := rfl

@[simp] theorem State.invalidateTree_herr (s : State) : (s.invalidateTree).herr = s.herr := rfl

@[simp] theorem State.invalidateTree_treeValid (s : State) : (s.invalidateTree).treeValid = false := rfl

@[simp] theorem State.invalidateTree_codeValid (s : State) : (s.invalidateTree).codeValid = false := rfl

@[simp] theorem State.invalidateTree_ctrl (s : State) : (s.invalidateTree).ctrl = s.ctrl := rfl

@[simp] theorem State.invalidateTree_inEnSample (s : State) : (s.invalidateTree).inEnSample = s.inEnSample := rfl

@[simp] theorem State.invalidateTree_errCause (s : State) : (s.invalidateTree).errCause = s.errCause := rfl

@[simp] theorem State.invalidateTree_errInfo (s : State) : (s.invalidateTree).errInfo = s.errInfo := rfl

@[simp] theorem State.invalidateTree_inLen (s : State) : (s.invalidateTree).inLen = s.inLen := rfl

@[simp] theorem State.invalidateTree_inPtr (s : State) : (s.invalidateTree).inPtr = s.inPtr := rfl

@[simp] theorem State.invalidateTree_outPtr (s : State) : (s.invalidateTree).outPtr = s.outPtr := rfl

@[simp] theorem State.invalidateTree_ftSel (s : State) : (s.invalidateTree).ftSel = s.ftSel := rfl

@[simp] theorem State.invalidateTree_nodeSel (s : State) : (s.invalidateTree).nodeSel = s.nodeSel := rfl

@[simp] theorem State.invalidateTree_codeSel (s : State) : (s.invalidateTree).codeSel = s.codeSel := rfl

@[simp] theorem State.invalidateTree_codeWsel (s : State) : (s.invalidateTree).codeWsel = s.codeWsel := rfl

@[simp] theorem State.invalidateTree_ft (s : State) : (s.invalidateTree).ft = s.ft := rfl

@[simp] theorem State.invalidateTree_tree (s : State) : (s.invalidateTree).tree = s.tree := rfl

@[simp] theorem State.invalidateTree_codes (s : State) : (s.invalidateTree).codes = s.codes := rfl

@[simp] theorem State.invalidateTree_ibuf (s : State) : (s.invalidateTree).ibuf = s.ibuf := rfl

@[simp] theorem State.invalidateTree_obuf (s : State) : (s.invalidateTree).obuf = s.obuf := rfl

@[simp] theorem State.invalidateTree_acc (s : State) : (s.invalidateTree).acc = s.acc := rfl

@[simp] theorem State.invalidateTree_nacc (s : State) : (s.invalidateTree).nacc = s.nacc := rfl

@[simp] theorem State.invalidateTree_walk (s : State) : (s.invalidateTree).walk = s.walk := rfl

@[simp] theorem State.invalidateTree_mergeQ (s : State) : (s.invalidateTree).mergeQ = s.mergeQ := rfl

@[simp] theorem State.invalidateTree_host (s : State) : (s.invalidateTree).host = s.host := rfl

@[simp] theorem State.invalidateTree_epoch (s : State) : (s.invalidateTree).epoch = s.epoch := rfl

/-! ### State.invalidateCodes -/

@[simp] theorem State.invalidateCodes_cfg (s : State) : (s.invalidateCodes).cfg = s.cfg := rfl

@[simp] theorem State.invalidateCodes_rst (s : State) : (s.invalidateCodes).rst = s.rst := rfl

@[simp] theorem State.invalidateCodes_seq (s : State) : (s.invalidateCodes).seq = s.seq := rfl

@[simp] theorem State.invalidateCodes_done (s : State) : (s.invalidateCodes).done = s.done := rfl

@[simp] theorem State.invalidateCodes_err (s : State) : (s.invalidateCodes).err = s.err := rfl

@[simp] theorem State.invalidateCodes_herr (s : State) : (s.invalidateCodes).herr = s.herr := rfl

@[simp] theorem State.invalidateCodes_treeValid (s : State) : (s.invalidateCodes).treeValid = s.treeValid := rfl

@[simp] theorem State.invalidateCodes_codeValid (s : State) : (s.invalidateCodes).codeValid = false := rfl

@[simp] theorem State.invalidateCodes_ctrl (s : State) : (s.invalidateCodes).ctrl = s.ctrl := rfl

@[simp] theorem State.invalidateCodes_inEnSample (s : State) : (s.invalidateCodes).inEnSample = s.inEnSample := rfl

@[simp] theorem State.invalidateCodes_errCause (s : State) : (s.invalidateCodes).errCause = s.errCause := rfl

@[simp] theorem State.invalidateCodes_errInfo (s : State) : (s.invalidateCodes).errInfo = s.errInfo := rfl

@[simp] theorem State.invalidateCodes_inLen (s : State) : (s.invalidateCodes).inLen = s.inLen := rfl

@[simp] theorem State.invalidateCodes_inPtr (s : State) : (s.invalidateCodes).inPtr = s.inPtr := rfl

@[simp] theorem State.invalidateCodes_outPtr (s : State) : (s.invalidateCodes).outPtr = s.outPtr := rfl

@[simp] theorem State.invalidateCodes_ftSel (s : State) : (s.invalidateCodes).ftSel = s.ftSel := rfl

@[simp] theorem State.invalidateCodes_nodeSel (s : State) : (s.invalidateCodes).nodeSel = s.nodeSel := rfl

@[simp] theorem State.invalidateCodes_codeSel (s : State) : (s.invalidateCodes).codeSel = s.codeSel := rfl

@[simp] theorem State.invalidateCodes_codeWsel (s : State) : (s.invalidateCodes).codeWsel = s.codeWsel := rfl

@[simp] theorem State.invalidateCodes_ft (s : State) : (s.invalidateCodes).ft = s.ft := rfl

@[simp] theorem State.invalidateCodes_tree (s : State) : (s.invalidateCodes).tree = s.tree := rfl

@[simp] theorem State.invalidateCodes_codes (s : State) : (s.invalidateCodes).codes = s.codes := rfl

@[simp] theorem State.invalidateCodes_ibuf (s : State) : (s.invalidateCodes).ibuf = s.ibuf := rfl

@[simp] theorem State.invalidateCodes_obuf (s : State) : (s.invalidateCodes).obuf = s.obuf := rfl

@[simp] theorem State.invalidateCodes_acc (s : State) : (s.invalidateCodes).acc = s.acc := rfl

@[simp] theorem State.invalidateCodes_nacc (s : State) : (s.invalidateCodes).nacc = s.nacc := rfl

@[simp] theorem State.invalidateCodes_walk (s : State) : (s.invalidateCodes).walk = s.walk := rfl

@[simp] theorem State.invalidateCodes_mergeQ (s : State) : (s.invalidateCodes).mergeQ = s.mergeQ := rfl

@[simp] theorem State.invalidateCodes_host (s : State) : (s.invalidateCodes).host = s.host := rfl

@[simp] theorem State.invalidateCodes_epoch (s : State) : (s.invalidateCodes).epoch = s.epoch := rfl

/-! ### State.hostError -/

@[simp] theorem State.hostError_cfg (s : State) : (s.hostError).cfg = s.cfg := rfl

@[simp] theorem State.hostError_rst (s : State) : (s.hostError).rst = s.rst := rfl

@[simp] theorem State.hostError_seq (s : State) : (s.hostError).seq = s.seq := rfl

@[simp] theorem State.hostError_done (s : State) : (s.hostError).done = s.done := rfl

@[simp] theorem State.hostError_err (s : State) : (s.hostError).err = s.err := rfl

@[simp] theorem State.hostError_herr (s : State) : (s.hostError).herr = true := rfl

@[simp] theorem State.hostError_treeValid (s : State) : (s.hostError).treeValid = s.treeValid := rfl

@[simp] theorem State.hostError_codeValid (s : State) : (s.hostError).codeValid = s.codeValid := rfl

@[simp] theorem State.hostError_ctrl (s : State) : (s.hostError).ctrl = s.ctrl := rfl

@[simp] theorem State.hostError_inEnSample (s : State) : (s.hostError).inEnSample = s.inEnSample := rfl

@[simp] theorem State.hostError_errCause (s : State) : (s.hostError).errCause = s.errCause := rfl

@[simp] theorem State.hostError_errInfo (s : State) : (s.hostError).errInfo = s.errInfo := rfl

@[simp] theorem State.hostError_inLen (s : State) : (s.hostError).inLen = s.inLen := rfl

@[simp] theorem State.hostError_inPtr (s : State) : (s.hostError).inPtr = s.inPtr := rfl

@[simp] theorem State.hostError_outPtr (s : State) : (s.hostError).outPtr = s.outPtr := rfl

@[simp] theorem State.hostError_ftSel (s : State) : (s.hostError).ftSel = s.ftSel := rfl

@[simp] theorem State.hostError_nodeSel (s : State) : (s.hostError).nodeSel = s.nodeSel := rfl

@[simp] theorem State.hostError_codeSel (s : State) : (s.hostError).codeSel = s.codeSel := rfl

@[simp] theorem State.hostError_codeWsel (s : State) : (s.hostError).codeWsel = s.codeWsel := rfl

@[simp] theorem State.hostError_ft (s : State) : (s.hostError).ft = s.ft := rfl

@[simp] theorem State.hostError_tree (s : State) : (s.hostError).tree = s.tree := rfl

@[simp] theorem State.hostError_codes (s : State) : (s.hostError).codes = s.codes := rfl

@[simp] theorem State.hostError_ibuf (s : State) : (s.hostError).ibuf = s.ibuf := rfl

@[simp] theorem State.hostError_obuf (s : State) : (s.hostError).obuf = s.obuf := rfl

@[simp] theorem State.hostError_acc (s : State) : (s.hostError).acc = s.acc := rfl

@[simp] theorem State.hostError_nacc (s : State) : (s.hostError).nacc = s.nacc := rfl

@[simp] theorem State.hostError_walk (s : State) : (s.hostError).walk = s.walk := rfl

@[simp] theorem State.hostError_mergeQ (s : State) : (s.hostError).mergeQ = s.mergeQ := rfl

@[simp] theorem State.hostError_host (s : State) : (s.hostError).host = s.host := rfl

@[simp] theorem State.hostError_epoch (s : State) : (s.hostError).epoch = s.epoch := rfl

/-! ### State.sampleInEn -/

@[simp] theorem State.sampleInEn_cfg (s : State) : (s.sampleInEn).cfg = s.cfg := rfl

@[simp] theorem State.sampleInEn_rst (s : State) : (s.sampleInEn).rst = s.rst := rfl

@[simp] theorem State.sampleInEn_seq (s : State) : (s.sampleInEn).seq = s.seq := rfl

@[simp] theorem State.sampleInEn_done (s : State) : (s.sampleInEn).done = s.done := rfl

@[simp] theorem State.sampleInEn_err (s : State) : (s.sampleInEn).err = s.err := rfl

@[simp] theorem State.sampleInEn_herr (s : State) : (s.sampleInEn).herr = s.herr := rfl

@[simp] theorem State.sampleInEn_treeValid (s : State) : (s.sampleInEn).treeValid = s.treeValid := rfl

@[simp] theorem State.sampleInEn_codeValid (s : State) : (s.sampleInEn).codeValid = s.codeValid := rfl

@[simp] theorem State.sampleInEn_ctrl (s : State) : (s.sampleInEn).ctrl = s.ctrl := rfl

@[simp] theorem State.sampleInEn_inEnSample (s : State) : (s.sampleInEn).inEnSample = s.ctrl.inEn := rfl

@[simp] theorem State.sampleInEn_errCause (s : State) : (s.sampleInEn).errCause = s.errCause := rfl

@[simp] theorem State.sampleInEn_errInfo (s : State) : (s.sampleInEn).errInfo = s.errInfo := rfl

@[simp] theorem State.sampleInEn_inLen (s : State) : (s.sampleInEn).inLen = s.inLen := rfl

@[simp] theorem State.sampleInEn_inPtr (s : State) : (s.sampleInEn).inPtr = s.inPtr := rfl

@[simp] theorem State.sampleInEn_outPtr (s : State) : (s.sampleInEn).outPtr = s.outPtr := rfl

@[simp] theorem State.sampleInEn_ftSel (s : State) : (s.sampleInEn).ftSel = s.ftSel := rfl

@[simp] theorem State.sampleInEn_nodeSel (s : State) : (s.sampleInEn).nodeSel = s.nodeSel := rfl

@[simp] theorem State.sampleInEn_codeSel (s : State) : (s.sampleInEn).codeSel = s.codeSel := rfl

@[simp] theorem State.sampleInEn_codeWsel (s : State) : (s.sampleInEn).codeWsel = s.codeWsel := rfl

@[simp] theorem State.sampleInEn_ft (s : State) : (s.sampleInEn).ft = s.ft := rfl

@[simp] theorem State.sampleInEn_tree (s : State) : (s.sampleInEn).tree = s.tree := rfl

@[simp] theorem State.sampleInEn_codes (s : State) : (s.sampleInEn).codes = s.codes := rfl

@[simp] theorem State.sampleInEn_ibuf (s : State) : (s.sampleInEn).ibuf = s.ibuf := rfl

@[simp] theorem State.sampleInEn_obuf (s : State) : (s.sampleInEn).obuf = s.obuf := rfl

@[simp] theorem State.sampleInEn_acc (s : State) : (s.sampleInEn).acc = s.acc := rfl

@[simp] theorem State.sampleInEn_nacc (s : State) : (s.sampleInEn).nacc = s.nacc := rfl

@[simp] theorem State.sampleInEn_walk (s : State) : (s.sampleInEn).walk = s.walk := rfl

@[simp] theorem State.sampleInEn_mergeQ (s : State) : (s.sampleInEn).mergeQ = s.mergeQ := rfl

@[simp] theorem State.sampleInEn_host (s : State) : (s.sampleInEn).host = s.host := rfl

@[simp] theorem State.sampleInEn_epoch (s : State) : (s.sampleInEn).epoch = s.epoch := rfl

/-! ### State.rewind -/

@[simp] theorem State.rewind_cfg (s : State) : (s.rewind).cfg = s.cfg := rfl

@[simp] theorem State.rewind_rst (s : State) : (s.rewind).rst = s.rst := rfl

@[simp] theorem State.rewind_seq (s : State) : (s.rewind).seq = s.seq := rfl

@[simp] theorem State.rewind_done (s : State) : (s.rewind).done = s.done := rfl

@[simp] theorem State.rewind_err (s : State) : (s.rewind).err = s.err := rfl

@[simp] theorem State.rewind_herr (s : State) : (s.rewind).herr = s.herr := rfl

@[simp] theorem State.rewind_treeValid (s : State) : (s.rewind).treeValid = s.treeValid := rfl

@[simp] theorem State.rewind_codeValid (s : State) : (s.rewind).codeValid = s.codeValid := rfl

@[simp] theorem State.rewind_ctrl (s : State) : (s.rewind).ctrl = s.ctrl := rfl

@[simp] theorem State.rewind_inEnSample (s : State) : (s.rewind).inEnSample = s.inEnSample := rfl

@[simp] theorem State.rewind_errCause (s : State) : (s.rewind).errCause = s.errCause := rfl

@[simp] theorem State.rewind_errInfo (s : State) : (s.rewind).errInfo = s.errInfo := rfl

@[simp] theorem State.rewind_inLen (s : State) : (s.rewind).inLen = s.inLen := rfl

@[simp] theorem State.rewind_inPtr (s : State) : (s.rewind).inPtr = 0 := rfl

@[simp] theorem State.rewind_outPtr (s : State) : (s.rewind).outPtr = 0 := rfl

@[simp] theorem State.rewind_ftSel (s : State) : (s.rewind).ftSel = s.ftSel := rfl

@[simp] theorem State.rewind_nodeSel (s : State) : (s.rewind).nodeSel = s.nodeSel := rfl

@[simp] theorem State.rewind_codeSel (s : State) : (s.rewind).codeSel = s.codeSel := rfl

@[simp] theorem State.rewind_codeWsel (s : State) : (s.rewind).codeWsel = s.codeWsel := rfl

@[simp] theorem State.rewind_ft (s : State) : (s.rewind).ft = s.ft := rfl

@[simp] theorem State.rewind_tree (s : State) : (s.rewind).tree = s.tree := rfl

@[simp] theorem State.rewind_codes (s : State) : (s.rewind).codes = s.codes := rfl

@[simp] theorem State.rewind_ibuf (s : State) : (s.rewind).ibuf = s.ibuf := rfl

@[simp] theorem State.rewind_obuf (s : State) : (s.rewind).obuf = s.obuf := rfl

@[simp] theorem State.rewind_acc (s : State) : (s.rewind).acc = s.acc := rfl

@[simp] theorem State.rewind_nacc (s : State) : (s.rewind).nacc = s.nacc := rfl

@[simp] theorem State.rewind_walk (s : State) : (s.rewind).walk = s.walk := rfl

@[simp] theorem State.rewind_mergeQ (s : State) : (s.rewind).mergeQ = s.mergeQ := rfl

@[simp] theorem State.rewind_host (s : State) : (s.rewind).host = s.host := rfl

@[simp] theorem State.rewind_epoch (s : State) : (s.rewind).epoch = s.epoch := rfl

/-! ### State.putFt -/

@[simp] theorem State.putFt_cfg (s : State) (b : Byte) (e : FtEntry) : (s.putFt b e).cfg = s.cfg := rfl

@[simp] theorem State.putFt_rst (s : State) (b : Byte) (e : FtEntry) : (s.putFt b e).rst = s.rst := rfl

@[simp] theorem State.putFt_seq (s : State) (b : Byte) (e : FtEntry) : (s.putFt b e).seq = s.seq := rfl

@[simp] theorem State.putFt_done (s : State) (b : Byte) (e : FtEntry) : (s.putFt b e).done = s.done := rfl

@[simp] theorem State.putFt_err (s : State) (b : Byte) (e : FtEntry) : (s.putFt b e).err = s.err := rfl

@[simp] theorem State.putFt_herr (s : State) (b : Byte) (e : FtEntry) : (s.putFt b e).herr = s.herr := rfl

@[simp] theorem State.putFt_treeValid (s : State) (b : Byte) (e : FtEntry) : (s.putFt b e).treeValid = s.treeValid := rfl

@[simp] theorem State.putFt_codeValid (s : State) (b : Byte) (e : FtEntry) : (s.putFt b e).codeValid = s.codeValid := rfl

@[simp] theorem State.putFt_ctrl (s : State) (b : Byte) (e : FtEntry) : (s.putFt b e).ctrl = s.ctrl := rfl

@[simp] theorem State.putFt_inEnSample (s : State) (b : Byte) (e : FtEntry) : (s.putFt b e).inEnSample = s.inEnSample := rfl

@[simp] theorem State.putFt_errCause (s : State) (b : Byte) (e : FtEntry) : (s.putFt b e).errCause = s.errCause := rfl

@[simp] theorem State.putFt_errInfo (s : State) (b : Byte) (e : FtEntry) : (s.putFt b e).errInfo = s.errInfo := rfl

@[simp] theorem State.putFt_inLen (s : State) (b : Byte) (e : FtEntry) : (s.putFt b e).inLen = s.inLen := rfl

@[simp] theorem State.putFt_inPtr (s : State) (b : Byte) (e : FtEntry) : (s.putFt b e).inPtr = s.inPtr := rfl

@[simp] theorem State.putFt_outPtr (s : State) (b : Byte) (e : FtEntry) : (s.putFt b e).outPtr = s.outPtr := rfl

@[simp] theorem State.putFt_ftSel (s : State) (b : Byte) (e : FtEntry) : (s.putFt b e).ftSel = s.ftSel := rfl

@[simp] theorem State.putFt_nodeSel (s : State) (b : Byte) (e : FtEntry) : (s.putFt b e).nodeSel = s.nodeSel := rfl

@[simp] theorem State.putFt_codeSel (s : State) (b : Byte) (e : FtEntry) : (s.putFt b e).codeSel = s.codeSel := rfl

@[simp] theorem State.putFt_codeWsel (s : State) (b : Byte) (e : FtEntry) : (s.putFt b e).codeWsel = s.codeWsel := rfl

@[simp] theorem State.putFt_ft (s : State) (b : Byte) (e : FtEntry) : (s.putFt b e).ft = s.ft.set b.toNat e (byte_toNat_lt b) := rfl

@[simp] theorem State.putFt_tree (s : State) (b : Byte) (e : FtEntry) : (s.putFt b e).tree = s.tree := rfl

@[simp] theorem State.putFt_codes (s : State) (b : Byte) (e : FtEntry) : (s.putFt b e).codes = s.codes := rfl

@[simp] theorem State.putFt_ibuf (s : State) (b : Byte) (e : FtEntry) : (s.putFt b e).ibuf = s.ibuf := rfl

@[simp] theorem State.putFt_obuf (s : State) (b : Byte) (e : FtEntry) : (s.putFt b e).obuf = s.obuf := rfl

@[simp] theorem State.putFt_acc (s : State) (b : Byte) (e : FtEntry) : (s.putFt b e).acc = s.acc := rfl

@[simp] theorem State.putFt_nacc (s : State) (b : Byte) (e : FtEntry) : (s.putFt b e).nacc = s.nacc := rfl

@[simp] theorem State.putFt_walk (s : State) (b : Byte) (e : FtEntry) : (s.putFt b e).walk = s.walk := rfl

@[simp] theorem State.putFt_mergeQ (s : State) (b : Byte) (e : FtEntry) : (s.putFt b e).mergeQ = s.mergeQ := rfl

@[simp] theorem State.putFt_host (s : State) (b : Byte) (e : FtEntry) : (s.putFt b e).host = s.host := rfl

@[simp] theorem State.putFt_epoch (s : State) (b : Byte) (e : FtEntry) : (s.putFt b e).epoch = s.epoch := rfl

/-! ### State.putObuf -/

@[simp] theorem State.putObuf_cfg (s : State) (i : Nat) (v : Byte) : (s.putObuf i v).cfg = s.cfg := rfl

@[simp] theorem State.putObuf_rst (s : State) (i : Nat) (v : Byte) : (s.putObuf i v).rst = s.rst := rfl

@[simp] theorem State.putObuf_seq (s : State) (i : Nat) (v : Byte) : (s.putObuf i v).seq = s.seq := rfl

@[simp] theorem State.putObuf_done (s : State) (i : Nat) (v : Byte) : (s.putObuf i v).done = s.done := rfl

@[simp] theorem State.putObuf_err (s : State) (i : Nat) (v : Byte) : (s.putObuf i v).err = s.err := rfl

@[simp] theorem State.putObuf_herr (s : State) (i : Nat) (v : Byte) : (s.putObuf i v).herr = s.herr := rfl

@[simp] theorem State.putObuf_treeValid (s : State) (i : Nat) (v : Byte) : (s.putObuf i v).treeValid = s.treeValid := rfl

@[simp] theorem State.putObuf_codeValid (s : State) (i : Nat) (v : Byte) : (s.putObuf i v).codeValid = s.codeValid := rfl

@[simp] theorem State.putObuf_ctrl (s : State) (i : Nat) (v : Byte) : (s.putObuf i v).ctrl = s.ctrl := rfl

@[simp] theorem State.putObuf_inEnSample (s : State) (i : Nat) (v : Byte) : (s.putObuf i v).inEnSample = s.inEnSample := rfl

@[simp] theorem State.putObuf_errCause (s : State) (i : Nat) (v : Byte) : (s.putObuf i v).errCause = s.errCause := rfl

@[simp] theorem State.putObuf_errInfo (s : State) (i : Nat) (v : Byte) : (s.putObuf i v).errInfo = s.errInfo := rfl

@[simp] theorem State.putObuf_inLen (s : State) (i : Nat) (v : Byte) : (s.putObuf i v).inLen = s.inLen := rfl

@[simp] theorem State.putObuf_inPtr (s : State) (i : Nat) (v : Byte) : (s.putObuf i v).inPtr = s.inPtr := rfl

@[simp] theorem State.putObuf_outPtr (s : State) (i : Nat) (v : Byte) : (s.putObuf i v).outPtr = s.outPtr := rfl

@[simp] theorem State.putObuf_ftSel (s : State) (i : Nat) (v : Byte) : (s.putObuf i v).ftSel = s.ftSel := rfl

@[simp] theorem State.putObuf_nodeSel (s : State) (i : Nat) (v : Byte) : (s.putObuf i v).nodeSel = s.nodeSel := rfl

@[simp] theorem State.putObuf_codeSel (s : State) (i : Nat) (v : Byte) : (s.putObuf i v).codeSel = s.codeSel := rfl

@[simp] theorem State.putObuf_codeWsel (s : State) (i : Nat) (v : Byte) : (s.putObuf i v).codeWsel = s.codeWsel := rfl

@[simp] theorem State.putObuf_ft (s : State) (i : Nat) (v : Byte) : (s.putObuf i v).ft = s.ft := rfl

@[simp] theorem State.putObuf_tree (s : State) (i : Nat) (v : Byte) : (s.putObuf i v).tree = s.tree := rfl

@[simp] theorem State.putObuf_codes (s : State) (i : Nat) (v : Byte) : (s.putObuf i v).codes = s.codes := rfl

@[simp] theorem State.putObuf_ibuf (s : State) (i : Nat) (v : Byte) : (s.putObuf i v).ibuf = s.ibuf := rfl

@[simp] theorem State.putObuf_obuf (s : State) (i : Nat) (v : Byte) : (s.putObuf i v).obuf = s.obuf.put i v := rfl

@[simp] theorem State.putObuf_acc (s : State) (i : Nat) (v : Byte) : (s.putObuf i v).acc = s.acc := rfl

@[simp] theorem State.putObuf_nacc (s : State) (i : Nat) (v : Byte) : (s.putObuf i v).nacc = s.nacc := rfl

@[simp] theorem State.putObuf_walk (s : State) (i : Nat) (v : Byte) : (s.putObuf i v).walk = s.walk := rfl

@[simp] theorem State.putObuf_mergeQ (s : State) (i : Nat) (v : Byte) : (s.putObuf i v).mergeQ = s.mergeQ := rfl

@[simp] theorem State.putObuf_host (s : State) (i : Nat) (v : Byte) : (s.putObuf i v).host = s.host := rfl

@[simp] theorem State.putObuf_epoch (s : State) (i : Nat) (v : Byte) : (s.putObuf i v).epoch = s.epoch := rfl

/-! ### State.putIbuf -/

@[simp] theorem State.putIbuf_cfg (s : State) (i : Nat) (v : Byte) : (s.putIbuf i v).cfg = s.cfg := rfl

@[simp] theorem State.putIbuf_rst (s : State) (i : Nat) (v : Byte) : (s.putIbuf i v).rst = s.rst := rfl

@[simp] theorem State.putIbuf_seq (s : State) (i : Nat) (v : Byte) : (s.putIbuf i v).seq = s.seq := rfl

@[simp] theorem State.putIbuf_done (s : State) (i : Nat) (v : Byte) : (s.putIbuf i v).done = s.done := rfl

@[simp] theorem State.putIbuf_err (s : State) (i : Nat) (v : Byte) : (s.putIbuf i v).err = s.err := rfl

@[simp] theorem State.putIbuf_herr (s : State) (i : Nat) (v : Byte) : (s.putIbuf i v).herr = s.herr := rfl

@[simp] theorem State.putIbuf_treeValid (s : State) (i : Nat) (v : Byte) : (s.putIbuf i v).treeValid = s.treeValid := rfl

@[simp] theorem State.putIbuf_codeValid (s : State) (i : Nat) (v : Byte) : (s.putIbuf i v).codeValid = s.codeValid := rfl

@[simp] theorem State.putIbuf_ctrl (s : State) (i : Nat) (v : Byte) : (s.putIbuf i v).ctrl = s.ctrl := rfl

@[simp] theorem State.putIbuf_inEnSample (s : State) (i : Nat) (v : Byte) : (s.putIbuf i v).inEnSample = s.inEnSample := rfl

@[simp] theorem State.putIbuf_errCause (s : State) (i : Nat) (v : Byte) : (s.putIbuf i v).errCause = s.errCause := rfl

@[simp] theorem State.putIbuf_errInfo (s : State) (i : Nat) (v : Byte) : (s.putIbuf i v).errInfo = s.errInfo := rfl

@[simp] theorem State.putIbuf_inLen (s : State) (i : Nat) (v : Byte) : (s.putIbuf i v).inLen = s.inLen := rfl

@[simp] theorem State.putIbuf_inPtr (s : State) (i : Nat) (v : Byte) : (s.putIbuf i v).inPtr = s.inPtr := rfl

@[simp] theorem State.putIbuf_outPtr (s : State) (i : Nat) (v : Byte) : (s.putIbuf i v).outPtr = s.outPtr := rfl

@[simp] theorem State.putIbuf_ftSel (s : State) (i : Nat) (v : Byte) : (s.putIbuf i v).ftSel = s.ftSel := rfl

@[simp] theorem State.putIbuf_nodeSel (s : State) (i : Nat) (v : Byte) : (s.putIbuf i v).nodeSel = s.nodeSel := rfl

@[simp] theorem State.putIbuf_codeSel (s : State) (i : Nat) (v : Byte) : (s.putIbuf i v).codeSel = s.codeSel := rfl

@[simp] theorem State.putIbuf_codeWsel (s : State) (i : Nat) (v : Byte) : (s.putIbuf i v).codeWsel = s.codeWsel := rfl

@[simp] theorem State.putIbuf_ft (s : State) (i : Nat) (v : Byte) : (s.putIbuf i v).ft = s.ft := rfl

@[simp] theorem State.putIbuf_tree (s : State) (i : Nat) (v : Byte) : (s.putIbuf i v).tree = s.tree := rfl

@[simp] theorem State.putIbuf_codes (s : State) (i : Nat) (v : Byte) : (s.putIbuf i v).codes = s.codes := rfl

@[simp] theorem State.putIbuf_ibuf (s : State) (i : Nat) (v : Byte) : (s.putIbuf i v).ibuf = s.ibuf.put i v := rfl

@[simp] theorem State.putIbuf_obuf (s : State) (i : Nat) (v : Byte) : (s.putIbuf i v).obuf = s.obuf := rfl

@[simp] theorem State.putIbuf_acc (s : State) (i : Nat) (v : Byte) : (s.putIbuf i v).acc = s.acc := rfl

@[simp] theorem State.putIbuf_nacc (s : State) (i : Nat) (v : Byte) : (s.putIbuf i v).nacc = s.nacc := rfl

@[simp] theorem State.putIbuf_walk (s : State) (i : Nat) (v : Byte) : (s.putIbuf i v).walk = s.walk := rfl

@[simp] theorem State.putIbuf_mergeQ (s : State) (i : Nat) (v : Byte) : (s.putIbuf i v).mergeQ = s.mergeQ := rfl

@[simp] theorem State.putIbuf_host (s : State) (i : Nat) (v : Byte) : (s.putIbuf i v).host = s.host := rfl

@[simp] theorem State.putIbuf_epoch (s : State) (i : Nat) (v : Byte) : (s.putIbuf i v).epoch = s.epoch := rfl

/-! ### State.writeStatus -/

@[simp] theorem State.writeStatus_cfg (s : State) (w : Word) : (s.writeStatus w).cfg = s.cfg := rfl

@[simp] theorem State.writeStatus_rst (s : State) (w : Word) : (s.writeStatus w).rst = s.rst := rfl

@[simp] theorem State.writeStatus_seq (s : State) (w : Word) : (s.writeStatus w).seq = s.seq := rfl

@[simp] theorem State.writeStatus_done (s : State) (w : Word) : (s.writeStatus w).done = (s.done && !w.getLsbD 1) := rfl

@[simp] theorem State.writeStatus_err (s : State) (w : Word) : (s.writeStatus w).err = (s.err && !w.getLsbD 2) := rfl

@[simp] theorem State.writeStatus_herr (s : State) (w : Word) : (s.writeStatus w).herr = (s.herr && !w.getLsbD 3) := rfl

@[simp] theorem State.writeStatus_treeValid (s : State) (w : Word) : (s.writeStatus w).treeValid = s.treeValid := rfl

@[simp] theorem State.writeStatus_codeValid (s : State) (w : Word) : (s.writeStatus w).codeValid = s.codeValid := rfl

@[simp] theorem State.writeStatus_ctrl (s : State) (w : Word) : (s.writeStatus w).ctrl = s.ctrl := rfl

@[simp] theorem State.writeStatus_inEnSample (s : State) (w : Word) : (s.writeStatus w).inEnSample = s.inEnSample := rfl

@[simp] theorem State.writeStatus_errCause (s : State) (w : Word) : (s.writeStatus w).errCause = s.errCause := rfl

@[simp] theorem State.writeStatus_errInfo (s : State) (w : Word) : (s.writeStatus w).errInfo = s.errInfo := rfl

@[simp] theorem State.writeStatus_inLen (s : State) (w : Word) : (s.writeStatus w).inLen = s.inLen := rfl

@[simp] theorem State.writeStatus_inPtr (s : State) (w : Word) : (s.writeStatus w).inPtr = s.inPtr := rfl

@[simp] theorem State.writeStatus_outPtr (s : State) (w : Word) : (s.writeStatus w).outPtr = s.outPtr := rfl

@[simp] theorem State.writeStatus_ftSel (s : State) (w : Word) : (s.writeStatus w).ftSel = s.ftSel := rfl

@[simp] theorem State.writeStatus_nodeSel (s : State) (w : Word) : (s.writeStatus w).nodeSel = s.nodeSel := rfl

@[simp] theorem State.writeStatus_codeSel (s : State) (w : Word) : (s.writeStatus w).codeSel = s.codeSel := rfl

@[simp] theorem State.writeStatus_codeWsel (s : State) (w : Word) : (s.writeStatus w).codeWsel = s.codeWsel := rfl

@[simp] theorem State.writeStatus_ft (s : State) (w : Word) : (s.writeStatus w).ft = s.ft := rfl

@[simp] theorem State.writeStatus_tree (s : State) (w : Word) : (s.writeStatus w).tree = s.tree := rfl

@[simp] theorem State.writeStatus_codes (s : State) (w : Word) : (s.writeStatus w).codes = s.codes := rfl

@[simp] theorem State.writeStatus_ibuf (s : State) (w : Word) : (s.writeStatus w).ibuf = s.ibuf := rfl

@[simp] theorem State.writeStatus_obuf (s : State) (w : Word) : (s.writeStatus w).obuf = s.obuf := rfl

@[simp] theorem State.writeStatus_acc (s : State) (w : Word) : (s.writeStatus w).acc = s.acc := rfl

@[simp] theorem State.writeStatus_nacc (s : State) (w : Word) : (s.writeStatus w).nacc = s.nacc := rfl

@[simp] theorem State.writeStatus_walk (s : State) (w : Word) : (s.writeStatus w).walk = s.walk := rfl

@[simp] theorem State.writeStatus_mergeQ (s : State) (w : Word) : (s.writeStatus w).mergeQ = s.mergeQ := rfl

@[simp] theorem State.writeStatus_host (s : State) (w : Word) : (s.writeStatus w).host = s.host := rfl

@[simp] theorem State.writeStatus_epoch (s : State) (w : Word) : (s.writeStatus w).epoch = s.epoch := rfl

/-! ### State.writeCtrl -/

@[simp] theorem State.writeCtrl_cfg (s : State) (w : Word) : (s.writeCtrl w).cfg = s.cfg := rfl

@[simp] theorem State.writeCtrl_rst (s : State) (w : Word) : (s.writeCtrl w).rst = s.rst := rfl

@[simp] theorem State.writeCtrl_seq (s : State) (w : Word) : (s.writeCtrl w).seq = s.seq := rfl

@[simp] theorem State.writeCtrl_done (s : State) (w : Word) : (s.writeCtrl w).done = s.done := rfl

@[simp] theorem State.writeCtrl_err (s : State) (w : Word) : (s.writeCtrl w).err = s.err := rfl

@[simp] theorem State.writeCtrl_herr (s : State) (w : Word) : (s.writeCtrl w).herr = s.herr := rfl

@[simp] theorem State.writeCtrl_treeValid (s : State) (w : Word) : (s.writeCtrl w).treeValid = s.treeValid := rfl

@[simp] theorem State.writeCtrl_codeValid (s : State) (w : Word) : (s.writeCtrl w).codeValid = s.codeValid := rfl

@[simp] theorem State.writeCtrl_ctrl (s : State) (w : Word) : (s.writeCtrl w).ctrl = { inEn := w.getLsbD 0, ieDone := w.getLsbD 1, ieErr := w.getLsbD 2 } := rfl

@[simp] theorem State.writeCtrl_inEnSample (s : State) (w : Word) : (s.writeCtrl w).inEnSample = s.inEnSample := rfl

@[simp] theorem State.writeCtrl_errCause (s : State) (w : Word) : (s.writeCtrl w).errCause = s.errCause := rfl

@[simp] theorem State.writeCtrl_errInfo (s : State) (w : Word) : (s.writeCtrl w).errInfo = s.errInfo := rfl

@[simp] theorem State.writeCtrl_inLen (s : State) (w : Word) : (s.writeCtrl w).inLen = s.inLen := rfl

@[simp] theorem State.writeCtrl_inPtr (s : State) (w : Word) : (s.writeCtrl w).inPtr = s.inPtr := rfl

@[simp] theorem State.writeCtrl_outPtr (s : State) (w : Word) : (s.writeCtrl w).outPtr = s.outPtr := rfl

@[simp] theorem State.writeCtrl_ftSel (s : State) (w : Word) : (s.writeCtrl w).ftSel = s.ftSel := rfl

@[simp] theorem State.writeCtrl_nodeSel (s : State) (w : Word) : (s.writeCtrl w).nodeSel = s.nodeSel := rfl

@[simp] theorem State.writeCtrl_codeSel (s : State) (w : Word) : (s.writeCtrl w).codeSel = s.codeSel := rfl

@[simp] theorem State.writeCtrl_codeWsel (s : State) (w : Word) : (s.writeCtrl w).codeWsel = s.codeWsel := rfl

@[simp] theorem State.writeCtrl_ft (s : State) (w : Word) : (s.writeCtrl w).ft = s.ft := rfl

@[simp] theorem State.writeCtrl_tree (s : State) (w : Word) : (s.writeCtrl w).tree = s.tree := rfl

@[simp] theorem State.writeCtrl_codes (s : State) (w : Word) : (s.writeCtrl w).codes = s.codes := rfl

@[simp] theorem State.writeCtrl_ibuf (s : State) (w : Word) : (s.writeCtrl w).ibuf = s.ibuf := rfl

@[simp] theorem State.writeCtrl_obuf (s : State) (w : Word) : (s.writeCtrl w).obuf = s.obuf := rfl

@[simp] theorem State.writeCtrl_acc (s : State) (w : Word) : (s.writeCtrl w).acc = s.acc := rfl

@[simp] theorem State.writeCtrl_nacc (s : State) (w : Word) : (s.writeCtrl w).nacc = s.nacc := rfl

@[simp] theorem State.writeCtrl_walk (s : State) (w : Word) : (s.writeCtrl w).walk = s.walk := rfl

@[simp] theorem State.writeCtrl_mergeQ (s : State) (w : Word) : (s.writeCtrl w).mergeQ = s.mergeQ := rfl

@[simp] theorem State.writeCtrl_host (s : State) (w : Word) : (s.writeCtrl w).host = s.host := rfl

@[simp] theorem State.writeCtrl_epoch (s : State) (w : Word) : (s.writeCtrl w).epoch = s.epoch := rfl

/-! ### State.answer -/

@[simp] theorem State.answer_cfg (s : State) (v : Word) : (s.answer v).cfg = s.cfg := rfl

@[simp] theorem State.answer_rst (s : State) (v : Word) : (s.answer v).rst = s.rst := rfl

@[simp] theorem State.answer_seq (s : State) (v : Word) : (s.answer v).seq = s.seq := rfl

@[simp] theorem State.answer_done (s : State) (v : Word) : (s.answer v).done = s.done := rfl

@[simp] theorem State.answer_err (s : State) (v : Word) : (s.answer v).err = s.err := rfl

@[simp] theorem State.answer_herr (s : State) (v : Word) : (s.answer v).herr = s.herr := rfl

@[simp] theorem State.answer_treeValid (s : State) (v : Word) : (s.answer v).treeValid = s.treeValid := rfl

@[simp] theorem State.answer_codeValid (s : State) (v : Word) : (s.answer v).codeValid = s.codeValid := rfl

@[simp] theorem State.answer_ctrl (s : State) (v : Word) : (s.answer v).ctrl = s.ctrl := rfl

@[simp] theorem State.answer_inEnSample (s : State) (v : Word) : (s.answer v).inEnSample = s.inEnSample := rfl

@[simp] theorem State.answer_errCause (s : State) (v : Word) : (s.answer v).errCause = s.errCause := rfl

@[simp] theorem State.answer_errInfo (s : State) (v : Word) : (s.answer v).errInfo = s.errInfo := rfl

@[simp] theorem State.answer_inLen (s : State) (v : Word) : (s.answer v).inLen = s.inLen := rfl

@[simp] theorem State.answer_inPtr (s : State) (v : Word) : (s.answer v).inPtr = s.inPtr := rfl

@[simp] theorem State.answer_outPtr (s : State) (v : Word) : (s.answer v).outPtr = s.outPtr := rfl

@[simp] theorem State.answer_ftSel (s : State) (v : Word) : (s.answer v).ftSel = s.ftSel := rfl

@[simp] theorem State.answer_nodeSel (s : State) (v : Word) : (s.answer v).nodeSel = s.nodeSel := rfl

@[simp] theorem State.answer_codeSel (s : State) (v : Word) : (s.answer v).codeSel = s.codeSel := rfl

@[simp] theorem State.answer_codeWsel (s : State) (v : Word) : (s.answer v).codeWsel = s.codeWsel := rfl

@[simp] theorem State.answer_ft (s : State) (v : Word) : (s.answer v).ft = s.ft := rfl

@[simp] theorem State.answer_tree (s : State) (v : Word) : (s.answer v).tree = s.tree := rfl

@[simp] theorem State.answer_codes (s : State) (v : Word) : (s.answer v).codes = s.codes := rfl

@[simp] theorem State.answer_ibuf (s : State) (v : Word) : (s.answer v).ibuf = s.ibuf := rfl

@[simp] theorem State.answer_obuf (s : State) (v : Word) : (s.answer v).obuf = s.obuf := rfl

@[simp] theorem State.answer_acc (s : State) (v : Word) : (s.answer v).acc = s.acc := rfl

@[simp] theorem State.answer_nacc (s : State) (v : Word) : (s.answer v).nacc = s.nacc := rfl

@[simp] theorem State.answer_walk (s : State) (v : Word) : (s.answer v).walk = s.walk := rfl

@[simp] theorem State.answer_mergeQ (s : State) (v : Word) : (s.answer v).mergeQ = s.mergeQ := rfl

@[simp] theorem State.answer_host (s : State) (v : Word) : (s.answer v).host = { s.host with readData := some v } := rfl

@[simp] theorem State.answer_epoch (s : State) (v : Word) : (s.answer v).epoch = s.epoch := rfl

/-! ### Derived views -/

@[simp] theorem State.busy_raise (s : State) (c : Cause) (info : Word) : (s.raise c info).busy = false := rfl

@[simp] theorem State.busy_finish (s : State) : s.finish.busy = false := rfl

@[simp] theorem State.busy_latch (s : State) (w : Word) : (s.latch w).busy = true := rfl

@[simp] theorem State.busy_sampleInEn (s : State) : s.sampleInEn.busy = s.busy := rfl

@[simp] theorem State.busy_latched (s : State) (w : Word) : (s.latched w).busy = true := rfl

@[simp] theorem State.ibufAt_raise (s : State) (c : Cause) (info : Word) (i : Nat) :
    (s.raise c info).ibufAt i = s.ibufAt i := rfl

@[simp] theorem State.obufAt_raise (s : State) (c : Cause) (info : Word) (i : Nat) :
    (s.raise c info).obufAt i = s.obufAt i := rfl

@[simp] theorem State.ibufAt_finish (s : State) (i : Nat) : s.finish.ibufAt i = s.ibufAt i := rfl

@[simp] theorem State.obufAt_finish (s : State) (i : Nat) : s.finish.obufAt i = s.obufAt i := rfl

@[simp] theorem State.ftAt_raise (s : State) (c : Cause) (info : Word) (sym : Byte) :
    (s.raise c info).ftAt sym = s.ftAt sym := rfl

@[simp] theorem State.ftAt_finish (s : State) (sym : Byte) : s.finish.ftAt sym = s.ftAt sym := rfl

theorem State.ftAt_putFt_same (s : State) (b : Byte) (e : FtEntry) : (s.putFt b e).ftAt b = e := by
  simp [State.ftAt]

theorem State.ftAt_putFt_other (s : State) (b c : Byte) (e : FtEntry) (h : b ≠ c) :
    (s.putFt b e).ftAt c = s.ftAt c := by
  have hne : b.toNat ≠ c.toNat := fun h' => h (BitVec.eq_of_toNat_eq h')
  simp [State.ftAt, Vector.getElem_set_ne _ _ hne]

@[simp] theorem State.ftAt_clearFt (s : State) (sym : Byte) : s.clearFt.ftAt sym = FtEntry.absent := by
  simp [State.ftAt]

@[simp] theorem State.nsym_clearFt (s : State) : s.clearFt.nsym = 0 := by
  rw [State.nsym, State.clearFt_ft, Vector.toList_replicate, List.countP_replicate]
  rfl

theorem nodeAt_putNode_same (a : Nodes) (i : NodeIx) (x : Node) : nodeAt (putNode a i x) i = x := by
  simp [nodeAt, putNode]

theorem nodeAt_putNode_other (a : Nodes) (i j : NodeIx) (x : Node) (h : i ≠ j) :
    nodeAt (putNode a i x) j = nodeAt a j := by
  have hne : i.val ≠ j.val := fun h' => h (Fin.ext h')
  simp [nodeAt, putNode, Vector.getElem_set_ne _ _ hne]

theorem codeAt_putCode_same (t : Vector CodeEntry 256) (b : Byte) (e : CodeEntry) : codeAt (putCode t b e) b = e := by
  simp [codeAt, putCode]

theorem codeAt_putCode_other (t : Vector CodeEntry 256) (b b' : Byte) (e : CodeEntry) (h : b ≠ b') :
    codeAt (putCode t b e) b' = codeAt t b' := by
  have hne : b.toNat ≠ b'.toNat := fun h' => h (BitVec.eq_of_toNat_eq h')
  simp [codeAt, putCode, Vector.getElem_set_ne _ _ hne]

end Sys2Proof.Machine
end

