-- ==== Sys2Proof/Laws/Ops.lean ====
section
/-! SUPPORT. One spec lemma per shared operation: everything the operation can do, said once. Proofs about commands cite these
and do not unfold the operations. -/

namespace Sys2Proof.Machine

/-! ### Bits, bytes and sorts -/

/-- `writeBit` changes one bit and no other. -/
theorem writeBit_getLsbD {n : Nat} (v : BitVec n) (i j : Nat) (b : Bool) (hi : i < n) :
    (writeBit v i b).getLsbD j = if j = i then b else v.getLsbD j := by
  unfold writeBit
  cases b
  · by_cases hj : j < n
    · by_cases h : j = i
      · subst h
        simp [hj]
      · simp [hj, h]
    · have hne : j ≠ i := by omega
      simp [hj, hne, BitVec.getLsbD_of_ge v j (by omega)]
  · by_cases h : j = i
    · subst h
      simp [hi]
    · have h' : ¬i = j := fun e => h e.symm
      simp [h, h', BitVec.getLsbD_twoPow]

/-- An entry of the frequency table after one is written. -/
theorem State.ftAt_putFt (s : State) (b sym : Byte) (e : FtEntry) :
    (s.putFt b e).ftAt sym = if sym = b then e else s.ftAt sym := by
  have h : b.toNat = sym.toNat ↔ sym = b := by rw [BitVec.toNat_inj, eq_comm]
  simp only [State.ftAt, State.putFt, Vector.getElem_set, h]

/-- An entry of the code table after one is written. -/
theorem codeAt_putCode (c : Vector CodeEntry 256) (b sym : Byte) (e : CodeEntry) :
    codeAt (putCode c b e) sym = if sym = b then e else codeAt c sym := by
  have h : b.toNat = sym.toNat ↔ sym = b := by rw [BitVec.toNat_inj, eq_comm]
  simp only [codeAt, putCode, Vector.getElem_set, h]

/-- An entry of a code table of equal entries. -/
theorem codeAt_replicate (sym : Byte) (e : CodeEntry) : codeAt (Vector.replicate 256 e) sym = e := by
  simp only [codeAt, Vector.getElem_replicate]

/-- A node of the arena after one is written. -/
theorem nodeAt_putNode (a : Nodes) (i j : NodeIx) (x : Node) :
    nodeAt (putNode a i x) j = if j = i then x else nodeAt a j := by
  have h : i.val = j.val ↔ j = i := by rw [← Fin.ext_iff, eq_comm]
  simp only [nodeAt, putNode, Vector.getElem_set, h]

/-- Every symbol is in the list the loops run over. -/
theorem mem_allSymbols (sym : Byte) : sym ∈ allSymbols :=
  List.mem_map.mpr ⟨sym.toNat, List.mem_range.mpr sym.isLt, by simp⟩

/-- Inserting adds the element, and nothing else. -/
theorem insertByKey_perm {α : Type} (key : α → Nat) (x : α) (q : List α) : (insertByKey key x q).Perm (x :: q) := by
  induction q with
  | nil => exact List.Perm.refl _
  | cons y ys ih =>
    simp only [insertByKey]
    split
    · exact List.Perm.refl _
    · exact (ih.cons y).trans (List.Perm.swap x y ys)

/-- A sort permutes. -/
theorem stableSortBy_perm {α : Type} (key : α → Nat) (q : List α) : (stableSortBy key q).Perm q := by
  induction q with
  | nil => exact List.Perm.refl _
  | cons x q ih => exact (insertByKey_perm key x _).trans (ih.cons x)

theorem insertByKey_sorted {α : Type} (key : α → Nat) (x : α) (q : List α)
    (h : q.Pairwise (fun a b => key a ≤ key b)) : (insertByKey key x q).Pairwise (fun a b => key a ≤ key b) := by
  induction q with
  | nil => simp [insertByKey]
  | cons y ys ih =>
    obtain ⟨h1, h2⟩ := List.pairwise_cons.1 h
    simp only [insertByKey]
    split
    next hxy =>
      refine List.pairwise_cons.2 ⟨fun z hz => ?_, h⟩
      rcases List.mem_cons.1 hz with rfl | hz
      · exact hxy
      · exact Nat.le_trans hxy (h1 z hz)
    next hxy =>
      refine List.pairwise_cons.2 ⟨fun z hz => ?_, ih h2⟩
      rcases List.mem_cons.1 ((insertByKey_perm key x ys).mem_iff.1 hz) with rfl | hz
      · omega
      · exact h1 z hz

/-- A sort sorts (R11). -/
theorem stableSortBy_sorted {α : Type} (key : α → Nat) (q : List α) :
    (stableSortBy key q).Pairwise (fun a b => key a ≤ key b) := by
  induction q with
  | nil => exact List.Pairwise.nil
  | cons x q ih => exact insertByKey_sorted key x _ ih

/-! ### The input stream -/

/-- The state after reading `k` input bytes. -/
def State.readPast (s : State) (k : Nat) : State := { s with inPtr := s.inPtr + BitVec.ofNat 32 k }

@[simp] theorem State.readPast_inPtr (s : State) (k : Nat) : (s.readPast k).inPtr = s.inPtr + BitVec.ofNat 32 k := rfl

@[simp] theorem State.readPast_zero (s : State) : s.readPast 0 = s := by
  simp [State.readPast]

/-- Reading past `j` bytes and then `k` is reading past `j + k`. -/
theorem State.readPast_readPast (s : State) (j k : Nat) : (s.readPast j).readPast k = s.readPast (j + k) := by
  simp only [State.readPast, BitVec.ofNat_add, BitVec.add_assoc]

@[simp] theorem State.ibufAt_readPast (s : State) (k i : Nat) : (s.readPast k).ibufAt i = s.ibufAt i := rfl

@[simp] theorem State.fetch_fst (s : State) : s.fetch.1 = s.ibufAt s.inPtr.toNat := rfl

@[simp] theorem State.fetch_snd (s : State) : s.fetch.2 = s.readPast 1 := rfl

/-- Everything `fetchMany` does: it reads the next `k` bytes and advances IN_PTR by `k`. -/
theorem State.fetchMany_eq (k : Nat) (s : State) :
    State.fetchMany k s =
      ((List.range k).map (fun j => s.ibufAt (s.inPtr + BitVec.ofNat 32 j).toNat), s.readPast k) := by
  induction k generalizing s with
  | zero => simp [State.fetchMany]
  | succ k ih =>
    have hadd : ∀ j, s.inPtr + BitVec.ofNat 32 1 + BitVec.ofNat 32 j = s.inPtr + BitVec.ofNat 32 (j + 1) := by
      intro j
      rw [BitVec.ofNat_add, BitVec.add_assoc, BitVec.add_comm (BitVec.ofNat 32 j)]
    show ((s.fetch.1 :: (State.fetchMany k s.fetch.2).1), (State.fetchMany k s.fetch.2).2) = _
    rw [State.fetch_snd, ih, State.readPast_readPast, Nat.add_comm 1 k, List.range_succ_eq_map]
    simp [hadd, Function.comp_def, Nat.mod_eq_of_lt s.inPtr.isLt]

/-- Everything `readLe8` does. -/
theorem State.readLe8_eq (s : State) :
    s.readLe8 =
      (BitVec.ofNat 64 (leNat ((List.range 8).map (fun j => s.ibufAt (s.inPtr + BitVec.ofNat 32 j).toNat))),
        s.readPast 8) := by
  simp only [State.readLe8, State.fetchMany_eq]

/-- Everything `need` does. -/
theorem State.need_cases (s : State) (k : Nat) (info : Word) :
    (s.inPtr.toNat + k ≤ s.inLen.toNat ∧ s.need k info = .ok ()) ∨
      (s.inLen.toNat < s.inPtr.toNat + k ∧ s.need k info = .error ⟨.idHdrTrunc, info, s⟩) := by
  unfold State.need
  split
  · exact .inr ⟨‹_›, rfl⟩
  · exact .inl ⟨by omega, rfl⟩

/-- Everything `inputChecks` does (R263). -/
theorem State.inputChecks_cases (s : State) :
    (s.inputOk ∧ s.inputChecks = .ok ()) ∨ (s.inEnSample = false ∧ s.inputChecks = .error ⟨.iifNotOpen, 0, s⟩) ∨
      (s.inEnSample = true ∧ (s.cfg.ibufSize < s.inLen.toNat ∨ s.inLen.toNat < s.inPtr.toNat) ∧
        s.inputChecks = .error ⟨.iifRange, s.inLen, s⟩) := by
  unfold State.inputChecks
  split
  · exact .inr (.inl ⟨‹_›, rfl⟩)
  next h =>
    have h' : s.inEnSample = true := by simpa using h
    split
    · exact .inr (.inr ⟨h', ‹_›, rfl⟩)
    next h2 => exact .inl ⟨⟨h', by omega, by omega⟩, rfl⟩

theorem State.inputChecks_ok (s : State) (h : s.inputOk) : s.inputChecks = .ok () := by
  obtain ⟨h1, h2, h3⟩ := h
  rcases s.inputChecks_cases with ⟨_, h⟩ | ⟨h, _⟩ | ⟨_, h, _⟩
  · exact h
  · simp [h1] at h
  · omega

/-! ### The output stream -/

/-- The buffer after writing bytes from offset `i` on. -/
def Memory.putMany : Memory → Nat → List Byte → Memory
  | m, _, [] => m
  | m, i, b :: bs => Memory.putMany (m.put i b) (i + 1) bs

/-- A run of writes leaves every other offset alone. -/
theorem Memory.get?_putMany_outside (bs : List Byte) (m : Memory) (i j : Nat) (h : j < i ∨ i + bs.length ≤ j) :
    (m.putMany i bs).get? j = m.get? j := by
  induction bs generalizing m i with
  | nil => rfl
  | cons b bs ih =>
    simp only [List.length_cons] at h
    rw [Memory.putMany, ih _ _ (by omega), Memory.get?_put_other _ _ _ _ (by omega)]

/-- A run of writes puts its bytes where it says. -/
theorem Memory.get?_putMany_inside (bs : List Byte) (m : Memory) (i j : Nat) (h : j < bs.length) :
    (m.putMany i bs).get? (i + j) = some bs[j] := by
  induction bs generalizing m i j with
  | nil => simp at h
  | cons b bs ih =>
    cases j with
    | zero =>
      rw [Memory.putMany, Memory.get?_putMany_outside _ _ _ _ (by omega)]
      exact Memory.get?_put_same m i b
    | succ j =>
      have h' : j < bs.length := by simpa using h
      have := ih (m.put i b) (i + 1) j h'
      rw [Memory.putMany, show i + (j + 1) = i + 1 + j by omega, this]
      simp

/-- A run of writes keeps the canonical form. -/
theorem Memory.putMany_wf (bs : List Byte) (m : Memory) (i : Nat) (h : m.wf) : (m.putMany i bs).wf := by
  induction bs generalizing m i with
  | nil => exact h
  | cons b bs ih => exact ih _ _ (Memory.put_wf m i b h)

/-- The state after the bytes `bs` have been appended to the output stream. -/
def State.wrote (s : State) (bs : List Byte) : State :=
  { s with obuf := s.obuf.putMany s.outPtr.toNat bs, outPtr := s.outPtr + BitVec.ofNat 32 bs.length }

@[simp] theorem State.wrote_outPtr (s : State) (bs : List Byte) :
    (s.wrote bs).outPtr = s.outPtr + BitVec.ofNat 32 bs.length := rfl

@[simp] theorem State.wrote_cfg (s : State) (bs : List Byte) : (s.wrote bs).cfg = s.cfg := rfl

@[simp] theorem State.wrote_nil (s : State) : s.wrote [] = s := by
  simp [State.wrote, Memory.putMany]

/-- OUT_PTR as a number after a write that fits. -/
theorem State.wrote_outPtr_toNat (s : State) (bs : List Byte) (h : s.outPtr.toNat + bs.length < 2 ^ 32) :
    (s.wrote bs).outPtr.toNat = s.outPtr.toNat + bs.length := by
  rw [State.wrote_outPtr, BitVec.toNat_add, BitVec.toNat_ofNat, Nat.add_mod_mod]
  exact Nat.mod_eq_of_lt h

/-- Writing `b` and then `bs` is writing them together. -/
theorem State.wrote_cons (s : State) (b : Byte) (bs : List Byte) (h : s.outPtr.toNat + 1 < 2 ^ 32) :
    (s.wrote [b]).wrote bs = s.wrote (b :: bs) := by
  have hp := s.wrote_outPtr_toNat [b] h
  have ha : s.outPtr + BitVec.ofNat 32 1 + BitVec.ofNat 32 bs.length = s.outPtr + BitVec.ofNat 32 (bs.length + 1) := by
    rw [BitVec.ofNat_add, BitVec.add_assoc, BitVec.add_comm (BitVec.ofNat 32 bs.length)]
  rw [State.wrote, hp]
  simp only [State.wrote, Memory.putMany, List.length_cons, List.length_nil, Nat.zero_add, ha]

/-- The bytes written read back. -/
theorem State.obufAt_wrote_inside (s : State) (bs : List Byte) (j : Nat) (h : j < bs.length) :
    (s.wrote bs).obufAt (s.outPtr.toNat + j) = bs[j] := by
  simp [State.obufAt, State.wrote, Memory.get?_putMany_inside bs s.obuf s.outPtr.toNat j h]

/-- Every byte outside them reads as before. -/
theorem State.obufAt_wrote_outside (s : State) (bs : List Byte) (i : Nat)
    (h : i < s.outPtr.toNat ∨ s.outPtr.toNat + bs.length ≤ i) : (s.wrote bs).obufAt i = s.obufAt i := by
  simp [State.obufAt, State.wrote, Memory.get?_putMany_outside bs s.obuf s.outPtr.toNat i h]

/-- Everything `emit` does (R77). -/
theorem State.emit_cases (s : State) (v : Byte) :
    (s.outPtr.toNat < s.cfg.obufSize ∧ s.emit v = .ok (s.wrote [v])) ∨
      (s.cfg.obufSize ≤ s.outPtr.toNat ∧ s.emit v = .error ⟨.ioOutOvf, s.outPtr, s⟩) := by
  unfold State.emit
  split
  · exact .inr ⟨‹_›, rfl⟩
  · exact .inl ⟨by omega, rfl⟩

/-- `emitMany` with room for all the bytes: they land from OUT_PTR on, and OUT_PTR advances by their number. -/
theorem State.emitMany_ok (bs : List Byte) (s : State) (hroom : s.outPtr.toNat + bs.length ≤ s.cfg.obufSize)
    (hsize : s.cfg.obufSize ≤ 2 ^ 30) : State.emitMany bs s = .ok (s.wrote bs) := by
  induction bs generalizing s with
  | nil => simp [State.emitMany]
  | cons b bs ih =>
    simp only [List.length_cons] at hroom
    have hp : (s.wrote [b]).outPtr.toNat = s.outPtr.toNat + 1 :=
      s.wrote_outPtr_toNat [b] (by simp only [List.length_cons, List.length_nil]; omega)
    rcases s.emit_cases b with ⟨_, he⟩ | ⟨h, _⟩
    · rw [State.emitMany, he]
      refine (ih (s.wrote [b]) (by rw [hp, State.wrote_cfg]; omega) hsize).trans ?_
      rw [State.wrote_cons s b bs (by omega)]
    · omega

/-- `emitMany` without room for all the bytes: those that fit land, and the first that does not raises IO_OUT_OVF. -/
theorem State.emitMany_full (bs : List Byte) (s : State) (hroom : s.cfg.obufSize < s.outPtr.toNat + bs.length)
    (hne : bs ≠ []) (hsize : s.cfg.obufSize ≤ 2 ^ 30) :
    State.emitMany bs s =
      .error ⟨.ioOutOvf, (s.wrote (bs.take (s.cfg.obufSize - s.outPtr.toNat))).outPtr,
        s.wrote (bs.take (s.cfg.obufSize - s.outPtr.toNat))⟩ := by
  induction bs generalizing s with
  | nil => exact absurd rfl hne
  | cons b bs ih =>
    simp only [List.length_cons] at hroom
    rcases s.emit_cases b with ⟨h, he⟩ | ⟨h, he⟩
    · have hp : (s.wrote [b]).outPtr.toNat = s.outPtr.toNat + 1 :=
        s.wrote_outPtr_toNat [b] (by simp only [List.length_cons, List.length_nil]; omega)
      have hne' : bs ≠ [] := by
        rintro rfl
        simp only [List.length_nil] at hroom
        omega
      have hk : s.cfg.obufSize - s.outPtr.toNat = s.cfg.obufSize - (s.outPtr.toNat + 1) + 1 := by omega
      rw [State.emitMany, he]
      refine (ih (s.wrote [b]) (by rw [hp, State.wrote_cfg]; omega) hne' hsize).trans ?_
      rw [hp, State.wrote_cfg, State.wrote_cons s b _ (by omega), hk, List.take_succ_cons]
    · have hk : s.cfg.obufSize - s.outPtr.toNat = 0 := by omega
      rw [State.emitMany, he, hk, List.take_zero, State.wrote_nil]
      rfl

theorem leBytes8_length (v : Count) : (leBytes8 v).length = 8 := by
  simp [leBytes8]

/-! ### Completion and acceptance -/

@[simp] theorem settle_ok (s : State) : settle (.ok s) = s.finish := rfl

@[simp] theorem settle_error (r : Raise) : settle (.error r) = r.state.raise r.cause r.info := rfl

@[simp] theorem settleStop_ok (s : State) : settleStop (.ok s) = .next s.finish := rfl

@[simp] theorem settleStop_raised (r : Raise) :
    settleStop (.error (.raised r)) = .next (r.state.raise r.cause r.info) := rfl

@[simp] theorem settleStop_stuck (f : Fault) : settleStop (.error (.stuck f)) = .fault f := rfl

@[simp] theorem settleStop_liftRun (r : Run State) : settleStop (liftRun r) = .next (settle r) := by
  cases r <;> rfl

/-- Every command that cannot get stuck is IDLE after its completion step. -/
theorem settle_seq (r : Run State) : (settle r).seq = .idle := by
  cases r <;> rfl

/-- Everything acceptance does (R264). -/
theorem State.accept_cases (s : State) (w : Word) :
    (∃ i, decode w = .ok i ∧ s.accept w = (s.latch w).sampleInEn) ∨
      (∃ e, decode w = .error e ∧ s.accept w = (s.latch w).raise .cmdIllegal w) := by
  unfold State.accept
  cases h : decode w with
  | ok i => exact .inl ⟨i, rfl, rfl⟩
  | error e => exact .inr ⟨e, rfl, rfl⟩

/-- A host write that is refused while BUSY = 1 (R310). -/
theorem State.unlessBusy_cases (s s' : State) :
    (s.busy = true ∧ s.unlessBusy s' = s.hostError) ∨ (s.busy = false ∧ s.unlessBusy s' = s') := by
  unfold State.unlessBusy
  cases h : s.busy <;> simp

/-! ### Steps -/

/-- No command is refused: each has a meaning. -/
theorem exec_ne_refused (i : Instr) (s : State) (r : Refusal) : exec i s ≠ .refused r := by
  have h : ∀ (x : Except Stop State), settleStop x ≠ .refused r := by
    intro x
    match x with
    | .ok s => exact fun h => nomatch h
    | .error (.raised _) => exact fun h => nomatch h
    | .error (.stuck _) => exact fun h => nomatch h
  cases i with
  | codegen => exact h _
  | compress z => exact h _
  | nop | clear | count | build | wrhdr | encode _ | rdhdr | decode | decompress => exact fun h => nomatch h

/-- Everything a step can do: a host operation, nothing, or one command from acceptance to completion. -/
theorem step_cases (s : State) :
    (s.hostMoves = true ∧ step s = .next s.hostTurn) ∨
    (s.hostMoves = false ∧ (s.rst = true ∨ s.seq = .idle) ∧ step s = .next s) ∨
    (s.hostMoves = false ∧ s.rst = false ∧ ∃ w p, s.seq = .run w p ∧
      ((∃ i, decode w = .ok i ∧ step s = exec i s) ∨
        (∃ e, decode w = .error e ∧ step s = .next (s.raise .cmdIllegal w)))) := by
  unfold step
  cases hm : s.hostMoves with
  | true => exact .inl ⟨rfl, rfl⟩
  | false =>
    refine .inr ?_
    simp only [Bool.false_eq_true, if_false, State.blockTurn]
    cases hr : s.rst with
    | true => exact .inl ⟨trivial, .inl rfl, rfl⟩
    | false =>
      simp only [Bool.false_eq_true, if_false]
      cases hs : s.seq with
      | idle => exact .inl ⟨trivial, .inr rfl, rfl⟩
      | run w p =>
        refine .inr ⟨trivial, trivial, w, p, rfl, ?_⟩
        cases hd : decode w with
        | ok i => exact .inl ⟨i, rfl, by simp only [hd]⟩
        | error e => exact .inr ⟨e, rfl, by simp only [hd]⟩

end Sys2Proof.Machine
end

