-- ==== Sys2Proof/Laws/PerInstr.lean ====
section
/-! SUPPORT. Per instruction: the word the encoder gives a command fits the fixed bits of its row of the opcode table
(30_encoding.md R101, R104) and is legal by the checks of R102. -/

namespace Sys2Proof.Laws.TableRow

/-- The `match` column of the opcode table. -/
def rowMatch : Instr → Word
  | .nop => 0x00000000
  | .clear => 0x00000001
  | .count => 0x00000002
  | .build => 0x00000003
  | .codegen => 0x00000004
  | .wrhdr => 0x00000005
  | .encode _ => 0x00000006
  | .rdhdr => 0x00000007
  | .decode => 0x00000008
  | .compress _ => 0x00000010
  | .decompress => 0x00000011

/-- The `mask` column of the opcode table: every bit is fixed but `Z` of ENCODE and COMPRESS. -/
def rowMask : Instr → Word
  | .nop => 0xFFFFFFFF
  | .clear => 0xFFFFFFFF
  | .count => 0xFFFFFFFF
  | .build => 0xFFFFFFFF
  | .codegen => 0xFFFFFFFF
  | .wrhdr => 0xFFFFFFFF
  | .encode _ => 0xFFFFFEFF
  | .rdhdr => 0xFFFFFFFF
  | .decode => 0xFFFFFFFF
  | .compress _ => 0xFFFFFEFF
  | .decompress => 0xFFFFFFFF

/-- The word of the instruction fits its row, and is a legal word. -/
def Statement (i : Instr) : Prop :=
  Sys2Proof.encode i &&& rowMask i = rowMatch i ∧ legalWord (Sys2Proof.encode i) = true

theorem nop : Statement .nop := by unfold Statement; decide
theorem clear : Statement .clear := by unfold Statement; decide
theorem count : Statement .count := by unfold Statement; decide
theorem build : Statement .build := by unfold Statement; decide
theorem codegen : Statement .codegen := by unfold Statement; decide
theorem wrhdr : Statement .wrhdr := by unfold Statement; decide
theorem encode (z : Bool) : Statement (.encode z) := by unfold Statement; cases z <;> decide
theorem rdhdr : Statement .rdhdr := by unfold Statement; decide
theorem decode : Statement .decode := by unfold Statement; decide
theorem compress (z : Bool) : Statement (.compress z) := by unfold Statement; cases z <;> decide
theorem decompress : Statement .decompress := by unfold Statement; decide

end Sys2Proof.Laws.TableRow
end

