-- ==== Sys2Proof/Tests/Slice0.lean ====
section
/-! SUPPORT. Tests of the model against the words, worked examples and vectors of spec/ (30_encoding.md, 95_test_vectors.md),
each about one step, and for each statement with hypotheses a concrete witness that meets them. -/

namespace Sys2Proof.Tests

open Sys2Proof.Machine

set_option Elab.async false

/-! ### Helpers -/

/-- A machine with buffers of `isz` and `osz` bytes, IN_EN set and sampled, and the given input in IBUF (95_test_vectors.md, 0). -/
def start (isz osz : Nat) (input : List Byte) : State :=
  { State.afterReset { ibufSize := isz, obufSize := osz } { pending := [], readData := none, turns := 0, draws := 0 } 0 with
    ctrl := { inEn := true, ieDone := false, ieErr := false }
    inEnSample := true
    ibuf := input.zipIdx.map (fun p => (p.2, p.1))
    inLen := BitVec.ofNat 32 input.length }

/-- The state with these symbols present, with these counts. -/
def withFt (s : State) : List (Byte × Count) → State
  | [] => s
  | (b, c) :: rest => withFt (s.putFt b { present := true, count := c }) rest

/-- Whether an outcome is a next state. -/
def isNext (o : Host.Outcome State Fault Refusal) : Bool :=
  match o with
  | .next _ => true
  | .fault _ => false
  | .refused _ => false

/-- The next state of an outcome; a stopped one gives the start state. -/
def after (o : Host.Outcome State Fault Refusal) : State :=
  match o with
  | .next t => t
  | .fault _ => start 1 1 []
  | .refused _ => start 1 1 []

theorem eq_next_after {o : Host.Outcome State Fault Refusal} (h : isNext o = true) : o = .next (after o) := by
  cases o with
  | next t => rfl
  | fault f => exact nomatch h
  | refused r => exact nomatch h

/-- The whole step of an accepted command word (R264, R318). -/
def runWord (w : Nat) (s : State) : State := after (step (s.withFetchWord 32 w))

/-- STATUS, ERR, ERR_INFO, IN_PTR and OUT_PTR as numbers. -/
def view (s : State) : List Nat :=
  [s.statusWord.toNat, s.errWord.toNat, s.errInfo.toNat, s.inPtr.toNat, s.outPtr.toNat]

/-- The symbols present and their counts. -/
def ftList (s : State) : List (Nat × Nat) :=
  (allSymbols.filter (fun b => (s.ftAt b).present)).map (fun b => (b.toNat, (s.ftAt b).count.toNat))

/-- "aab". -/
def aab : List Byte := [0x61, 0x61, 0x62]

/-- "abbbbbbbb" (95_test_vectors.md, X6). -/
def abbb : List Byte := [0x61, 0x62, 0x62, 0x62, 0x62, 0x62, 0x62, 0x62, 0x62]

/-- The table of "aaabbc" (X1). -/
def ft321 : List (Byte × Count) := [(0x61, 3), (0x62, 2), (0x63, 1)]

/-- The header of "aaabbc" (R160's example). -/
def header321 : List Byte :=
  [0x53, 0x48, 0x46, 3, 0, 0, 0, 0, 0, 0, 0] ++ [0x61, 3, 0, 0, 0, 0, 0, 0, 0] ++ [0x62, 2, 0, 0, 0, 0, 0, 0, 0] ++
    [0x63, 1, 0, 0, 0, 0, 0, 0, 0]

/-- The state after BUILD of the table of "aaabbc". -/
def built321 : State := runWord 3 (withFt (start 4096 4096 []) ft321)

/-- The state after CODEGEN of that tree. -/
def coded321 : State := runWord 4 built321

/-! ### Well-formedness: an ill-formed word for each check -/

theorem test_reserved_bits_refused : reservedBitsZero 0x00000206#32 = false ∧ legalWord 0x00000206#32 = false := by decide

theorem test_unknown_opcode_refused : opcodeKnown 0x00000009#32 = false ∧ legalWord 0x00000009#32 = false := by decide

theorem test_modifier_refused : modifierAllowed 0x00000102#32 = false ∧ legalWord 0x00000102#32 = false := by decide

theorem test_legal_words_pass : legalWord 0x00000106#32 = true ∧ legalWord 0x00000011#32 = true := by decide

/-! ### Decoding: words written out bit by bit from R100, R101, R104 -/

theorem test_decode_count : decode 0b00000000000000000000000000000010#32 = .ok .count := by decide

theorem test_decode_rdhdr : decode 0b00000000000000000000000000000111#32 = .ok .rdhdr := by decide

theorem test_decode_codegen : decode 0b00000000000000000000000000000100#32 = .ok .codegen := by decide

theorem test_decode_encode_z : decode 0b00000000000000000000000100000110#32 = .ok (.encode true) := by decide

theorem test_decode_decode : decode 0b00000000000000000000000000001000#32 = .ok .decode := by decide

theorem test_decode_compress_z : decode 0b00000000000000000000000100010000#32 = .ok (.compress true) := by decide

theorem test_decode_reserved_opcode : decode 0b00000000000000000000000000010010#32 = .error .unknownOpcode := by decide

theorem test_decodeTableWord : decodeTableWord 32 0x106 = some (.encode true) ∧ decodeTableWord 32 0x12 = none := by decide

/-! ### One step each (the vector's id in the name) -/

theorem test_nop_VO1 : view (runWord 0 (start 1 1 [])) = [0x02, 0, 0, 0, 0] := by decide +kernel

theorem test_clear_VF2 : ftList (runWord 1 (withFt (start 1 1 []) ft321)) = [] := by decide +kernel

theorem test_count_VF4 :
    ftList (runWord 2 { start 4096 1 [0x61, 0x61, 0x61, 0x62, 0x62, 0x63] with inPtr := 3 }) = [(0x62, 2), (0x63, 1)] := by
  decide +kernel

theorem test_count_VF6 : view (runWord 2 { start 16 1 [] with inLen := 17 }) = [0x04, 0x0102, 0x11, 0, 0] := by
  decide +kernel

theorem test_build_VT1 :
    (coded321.tree.root.val, coded321.tree.count.val, coded321.statusWord.toNat) = (4, 5, 0x32) ∧
      [(coded321.node 3).left.val, (coded321.node 3).right.val, (coded321.node 4).left.val,
        (coded321.node 4).right.val] = [1, 2, 3, 0] := by decide +kernel

theorem test_build_VT10 :
    view (runWord 3 (withFt (start 1 1 []) [(0, 0xFFFFFFFFFFFFFFFF), (1, 1)])) = [0x04, 0x0217, 0, 0, 0] := by
  decide +kernel

theorem test_codegen_VT1 :
    [0x61, 0x62, 0x63].map (fun b => (codeAt coded321.codes b).code) = [[true], [false, false], [false, true]] := by
  decide +kernel

theorem test_codegen_VT13 : view (runWord 4 (start 1 1 [])) = [0x04, 0x0431, 4, 0, 0] := by decide +kernel

theorem test_wrhdr_VS1 :
    (runWord 5 (withFt (start 1 4096 []) ft321)).obuf.map (fun c => c.2) = header321 := by decide +kernel

theorem test_wrhdr_VS4 :
    view (runWord 5 { withFt (start 1 20 []) ft321 with outPtr := 5 }) = [0x04, 0x0320, 0x14, 0, 20] := by decide +kernel

theorem test_rdhdr_VS5 :
    ftList (runWord 7 (start 4096 1 (header321 ++ [0xE0, 0x80]))) = [(0x61, 3), (0x62, 2), (0x63, 1)] ∧
      view (runWord 7 (start 4096 1 (header321 ++ [0xE0, 0x80]))) = [0x02, 0, 0, 38, 0] := by decide +kernel

theorem test_rdhdr_VS14 :
    view (runWord 7 (start 4096 1 ([0x53, 0x48, 0x46, 2, 0, 0, 0, 0, 0, 0, 0] ++ [0x61, 1, 0, 0, 0, 0, 0, 0, 0] ++
      [0x61, 2, 0, 0, 0, 0, 0, 0, 0]))) = [0x04, 0x0214, 0x161, 29, 0] := by decide +kernel

theorem test_encode_VE1 :
    (runWord 6 { coded321 with
      ibuf := (start 1 1 [0x61, 0x61, 0x61, 0x62, 0x62, 0x63]).ibuf, inLen := 6 }).obuf = [(0, 0xE0), (1, 0x80)] := by
  decide +kernel

theorem test_encode_VE11 : view (runWord 0x106 (start 4096 4096 [0x61])) = [0x04, 0x0432, 0x106, 0, 0] := by
  decide +kernel

theorem test_decode_VD3 :
    view (runWord 8 { built321 with ibuf := [(0, 0xE0)], inLen := 1 }) = [0x14, 0x0216, 5, 1, 5] := by decide +kernel

theorem test_decode_VD1 :
    (runWord 8 { built321 with ibuf := [(0, 0xE0), (1, 0x80)], inLen := 2 }).obuf.map (fun c => c.2) =
      [0x61, 0x61, 0x61, 0x62, 0x62, 0x63] := by decide +kernel

theorem test_compress_VO6 :
    (runWord 0x10 (start 4096 4096 aab)).obuf.map (fun c => c.2) =
      [0x53, 0x48, 0x46, 2, 0, 0, 0, 0, 0, 0, 0, 0x61, 2, 0, 0, 0, 0, 0, 0, 0, 0x62, 1, 0, 0, 0, 0, 0, 0, 0, 0x20] := by
  decide +kernel

theorem test_compress_VO12 :
    view (runWord 0x10 { (start 4096 4096 aab).writeCtrl 0 with inPtr := 3, outPtr := 9 }) = [0x04, 0x0101, 0, 0, 0] := by
  decide +kernel

theorem test_decompress_VO13 :
    (runWord 0x11 (start 4096 4096 (header321 ++ [0xE0, 0x80]))).obuf.map (fun c => c.2) =
      [0x61, 0x61, 0x61, 0x62, 0x62, 0x63] := by decide +kernel

theorem test_decompress_X4 :
    view (runWord 0x11 (start 4096 4096 [0x53, 0x48, 0x58, 1, 0, 0, 0, 0, 0, 0, 0])) =
      [0x04, 0x0211, 0x00584853, 3, 0] := by decide +kernel

/-! ### The host's accesses -/

theorem test_read_VH1 : ((start 1 1 []).hostRead 0x34 .word).host.readData = some 0 ∧
    ((start 1 1 []).hostRead 0x34 .word).statusWord = 0x08 := by decide +kernel

theorem test_write_VH8 : ((start 16 1 []).hostWrite 0x40000010 .byte 1).statusWord = 0x08 ∧
    ((start 16 1 []).hostWrite 0x4000000F .byte 1).ibuf = [(15, 1)] := by decide +kernel

theorem test_read_VH6 : (({ start 1 64 [] with obuf := [(36, 0), (37, 0), (38, 0xE0), (39, 0x80)] }).hostRead
    0x80000024 .word).host.readData = some 0x80E00000 := by decide +kernel

theorem test_windows_VT15 :
    [({ coded321 with nodeSel := 2 }).readReg .nodeInfo, ({ coded321 with nodeSel := 3 }).readReg .nodeLinks,
      coded321.readReg .treeInfo, ({ coded321 with codeSel := 0x63 }).readReg .codeInfo] =
      [0x00036307, 0x00020001, 0x00050004, 0x00000201] := by decide +kernel

theorem test_irq_VO14 :
    (runWord 0 ({ start 1 1 [] with ctrl := { inEn := true, ieDone := true, ieErr := false } })).statusWord = 0x42 := by
  decide +kernel

theorem test_busy_write_VH10 :
    (((start 1 1 []).latched 0x10).hostWrite 0 .word 2).statusWord = 0x09 ∧
      (((start 1 1 []).latched 0x10).hostWrite 0 .word 2).seq = .run 0x10 .start := by decide +kernel

/-- IN_EN as at acceptance (R32, R87): COUNT accepted with IN_EN = 1 runs although CTRL is cleared while BUSY = 1. -/
theorem test_inEn_cleared_while_busy :
    (after (exec .count (((start 4 1 aab).hostWrite 0x00 .word 2).hostWrite 0x08 .word 0))).statusWord = 0x02 := by
  decide +kernel

/-- COUNT accepted with IN_EN = 0 fails although CTRL is set while BUSY = 1. -/
theorem test_inEn_set_while_busy :
    view (after (exec .count ((((start 4 1 aab).writeCtrl 0).hostWrite 0x00 .word 2).hostWrite 0x08 .word 1))) =
      [0x04, 0x0101, 0, 0, 0] := by decide +kernel

/-! ### Witnesses: states and operands that meet the hypotheses of each statement together -/

/-- A state with one host operation pending. -/
def pendingOne (s : State) : State := { s with host := { s.host with pending := [.wait] } }

/-- A state in which one host step may come before the completion step. -/
def oneTurn (s : State) : State := { s with host := { s.host with turns := 1 } }

/-- A state with the given bytes in IBUF, IN_PTR = 0. -/
def withInput (s : State) (input : List Byte) : State :=
  { s with ibuf := (start 1 1 input).ibuf, inLen := BitVec.ofNat 32 input.length, inPtr := 0 }

/-- The tree of "aab", worked out by hand from R181: leaves 0 and 1, and over them node 2, whose right child is the lighter
leaf 1 (R180). -/
def tree21 : Tree where
  nodes := putNode (putNode (putNode Tree.blank.nodes 0 { leafNode 0x61 2 with hasp := true, parent := 2 }) 1
    { leafNode 0x62 1 with hasp := true, parent := 2 }) 2
    { leaf := false, sym := 0, w := 3, left := 0, right := 1, hasp := false, parent := 0 }
  root := 2
  count := 3

/-- The table of "aab" with its tree and its codes: 0 for `a` and 1 for `b`. -/
def aabReady : State :=
  { withFt (start 4096 4096 []) [(0x61, 2), (0x62, 1)] with
    tree := tree21
    treeValid := true
    codes := putCode (putCode (Vector.replicate 256 CodeEntry.empty) 0x61 { has := true, len := 1, bits := 0 }) 0x62
      { has := true, len := 1, bits := 1 }
    codeValid := true }

/-- The table of "aaabbc" and its tree, as R181's example gives it. -/
def abcReady : State :=
  { withFt (start 4096 4096 []) ft321 with
    tree :=
      { nodes := putNode (putNode (putNode (putNode (putNode Tree.blank.nodes
          0 { leafNode 0x61 3 with hasp := true, parent := 4 })
          1 { leafNode 0x62 2 with hasp := true, parent := 3 })
          2 { leafNode 0x63 1 with hasp := true, parent := 3 })
          3 { leaf := false, sym := 0, w := 3, left := 1, right := 2, hasp := true, parent := 4 })
          4 { leaf := false, sym := 0, w := 6, left := 3, right := 0, hasp := false, parent := 0 }
        root := 4
        count := 5 }
    treeValid := true }

/-- A single symbol with the given count, its tree (one leaf) and its code (no bit), and an OBUF of `osz` bytes. -/
def oneReady (count : Count) (osz : Nat) : State :=
  { withFt (start 16 osz []) [(0x41, count)] with
    tree := { nodes := putNode Tree.blank.nodes 0 (leafNode 0x41 count), root := 0, count := 1 }
    treeValid := true
    codes := putCode (Vector.replicate 256 CodeEntry.empty) 0x41 { has := true, len := 0, bits := 0 }
    codeValid := true }

theorem no_command_0x200 : ∀ i, decode 0x00000200#32 ≠ .ok i := by
  intro i h
  have e : decode 0x00000200#32 = .error .reservedBits := by decide
  exact nomatch e.symm.trans h

theorem witness_StepRunsLatchedCommand :
    let s := (start 1 1 []).latched 0x106
    s.rst = false ∧ s.seq = .run 0x106 .start ∧ s.host.pending = [] ∧ decode 0x106#32 = .ok (.encode true) ∧
      (Instr.encode true).wellFormed = true := by decide

theorem witness_StepRunsLatchedCommand_noTurns :
    let s := pendingOne ((start 1 1 []).latched 0x106)
    s.rst = false ∧ s.seq = .run 0x106 .start ∧ s.host.pending ≠ [] ∧ s.host.turns = 0 := by decide

theorem witness_StepRunsLatchedCommand_hostIdle :
    (pendingOne (start 1 1 [])).host.pending = .wait :: [] ∧ (pendingOne (start 1 1 [])).seq = .idle := by decide

theorem witness_StepRunsLatchedCommand_hostTurns :
    (oneTurn (pendingOne ((start 1 1 []).latched 0x106))).host.pending = .wait :: [] ∧
      0 < (oneTurn (pendingOne ((start 1 1 []).latched 0x106))).host.turns := by decide

theorem witness_StepRunsLatchedCommand_hostRst :
    let s := { pendingOne (start 1 1 []) with rst := true }
    s.host.pending = .wait :: [] ∧ s.rst = true := by decide

theorem witness_StepRunsLatchedCommand_idle : State.reset.host.pending = [] ∧ State.reset.seq = .idle := ⟨rfl, rfl⟩

theorem witness_LegalWordsAreExactlyThoseOfTheMap : (start 1 1 []).busy = false ∧ ∀ i, decode 0x00000200#32 ≠ .ok i :=
  ⟨by decide, no_command_0x200⟩

theorem witness_DecodeAndEncodeAgree :
    (Instr.compress true).wellFormed = true ∧ decode 0x00000110#32 = .ok (.compress true) := by decide

theorem witness_RstResetsFromEveryState : ∃ t, t = aabReady.perform (.rst true) := ⟨_, rfl⟩

theorem installed_legal : Config.installed.legal = true := by
  have h := Config.ibufSizeLessOne.isLt
  have k := Config.obufSizeLessOne.isLt
  refine decide_eq_true ⟨?_, ?_, ?_, ?_⟩ <;> simp only [Config.installed] <;> omega

theorem inv_start : (start 1 1 []).Inv := by
  refine ⟨by decide, ?_, ?_, ?_, ?_⟩
  · unfold State.buffersOk; decide
  · unfold State.flagsOk; decide
  · unfold State.recordOk; decide
  · exact ⟨fun w p h => (nomatch (h : Seq.idle = Seq.run w p)), fun _ => rfl⟩

theorem witness_StepKeepsStructuralInvariant : (start 1 1 []).Inv ∧ step (start 1 1 []) = .next (start 1 1 []) :=
  ⟨inv_start, rfl⟩

theorem ft_aabReady (sym : Byte) :
    aabReady.ftAt sym =
      if sym = 0x62#8 then { present := true, count := 1 }
      else if sym = 0x61#8 then { present := true, count := 2 } else FtEntry.absent := by
  have h : aabReady.ftAt sym = (withFt (start 4096 4096 []) [(0x61, 2), (0x62, 1)]).ftAt sym := rfl
  have e : (start 4096 4096 []).ftAt sym = FtEntry.absent := State.ftAt_clearFt (start 4096 4096 []) sym
  rw [h, withFt, withFt, withFt, State.ftAt_putFt, State.ftAt_putFt, e]
  rfl

theorem ft_oneReady (sym : Byte) :
    (oneReady 5 16).ftAt sym = if sym = 0x41#8 then { present := true, count := 5 } else FtEntry.absent := by
  have h : (oneReady 5 16).ftAt sym = (withFt (start 16 16 []) [(0x41, 5)]).ftAt sym := rfl
  have e : (start 16 16 []).ftAt sym = FtEntry.absent := State.ftAt_clearFt (start 16 16 []) sym
  rw [h, withFt, withFt, State.ftAt_putFt, e]
  rfl

theorem treeOk_aabReady : aabReady.treeOk := by
  have h : 1 ≤ aabReady.nsym ∧ aabReady.tree.count.val = 2 * aabReady.nsym - 1 ∧
      aabReady.tree.root.val = 2 * aabReady.nsym - 2 ∧ (aabReady.node (2 * aabReady.nsym - 2)).hasp = false ∧
      (aabReady.node (2 * aabReady.nsym - 2)).w.toNat = aabReady.ftTotal := by decide +kernel
  refine ⟨h.1, h.2.1, h.2.2.1, h.2.2.2.1, h.2.2.2.2, ⟨?_, ?_, ?_⟩, ?_, ?_⟩
  · decide +kernel
  · decide +kernel
  · intro sym _ hp
    have h0 : ∃ i ∈ List.range aabReady.nsym, (aabReady.node i).sym = 0x61#8 := by decide +kernel
    have h1 : ∃ i ∈ List.range aabReady.nsym, (aabReady.node i).sym = 0x62#8 := by decide +kernel
    rw [ft_aabReady] at hp
    split at hp
    · subst sym; exact h1
    · split at hp
      · subst sym; exact h0
      · exact absurd hp (by decide)
  · unfold State.internalOk; decide +kernel
  · unfold State.childOk; decide +kernel

theorem mergeOrderOk_aabReady : aabReady.mergeOrderOk := by
  have n : aabReady.nsym = 2 := by decide +kernel
  intro i h1 h2
  obtain rfl : i = 2 := by omega
  unfold State.mergedInOrder; decide +kernel

theorem code_aabReady (sym : Byte) :
    codeAt aabReady.codes sym =
      if sym = 0x62#8 then { has := true, len := 1, bits := 1 }
      else if sym = 0x61#8 then { has := true, len := 1, bits := 0 } else CodeEntry.empty := by
  show codeAt (putCode (putCode _ _ _) _ _) sym = _
  rw [codeAt_putCode, codeAt_putCode, codeAt_replicate]
  rfl

theorem codesOk_aabReady : aabReady.codesOk := by
  refine ⟨fun sym _ => ?_, by decide +kernel⟩
  rw [code_aabReady, ft_aabReady]
  split
  · decide
  · split <;> decide

theorem tables_aabReady : aabReady.TablesInv := 
  ⟨fun _ => ⟨treeOk_aabReady, mergeOrderOk_aabReady⟩, fun _ => ⟨rfl, codesOk_aabReady⟩⟩

theorem treeOk_oneReady : (oneReady 5 16).treeOk := by
  have h : 1 ≤ (oneReady 5 16).nsym ∧ (oneReady 5 16).tree.count.val = 2 * (oneReady 5 16).nsym - 1 ∧
      (oneReady 5 16).tree.root.val = 2 * (oneReady 5 16).nsym - 2 ∧
      ((oneReady 5 16).node (2 * (oneReady 5 16).nsym - 2)).hasp = false ∧
      ((oneReady 5 16).node (2 * (oneReady 5 16).nsym - 2)).w.toNat = (oneReady 5 16).ftTotal := by decide +kernel
  refine ⟨h.1, h.2.1, h.2.2.1, h.2.2.2.1, h.2.2.2.2, ⟨?_, ?_, ?_⟩, ?_, ?_⟩
  · decide +kernel
  · decide +kernel
  · intro sym _ hp
    have h0 : ∃ i ∈ List.range (oneReady 5 16).nsym, ((oneReady 5 16).node i).sym = 0x41#8 := by decide +kernel
    rw [ft_oneReady] at hp
    split at hp
    · subst sym; exact h0
    · exact absurd hp (by decide)
  · unfold State.internalOk; decide +kernel
  · unfold State.childOk; decide +kernel

theorem ft_abcReady (sym : Byte) :
    abcReady.ftAt sym =
      if sym = 0x63#8 then { present := true, count := 1 }
      else if sym = 0x62#8 then { present := true, count := 2 }
      else if sym = 0x61#8 then { present := true, count := 3 } else FtEntry.absent := by
  have h : abcReady.ftAt sym = (withFt (start 4096 4096 []) [(0x61, 3), (0x62, 2), (0x63, 1)]).ftAt sym := rfl
  have e : (start 4096 4096 []).ftAt sym = FtEntry.absent := State.ftAt_clearFt (start 4096 4096 []) sym
  rw [h, withFt, withFt, withFt, withFt, State.ftAt_putFt, State.ftAt_putFt, State.ftAt_putFt, e]
  rfl

theorem treeOk_abcReady : abcReady.treeOk := by
  have h : 1 ≤ abcReady.nsym ∧ abcReady.tree.count.val = 2 * abcReady.nsym - 1 ∧
      abcReady.tree.root.val = 2 * abcReady.nsym - 2 ∧ (abcReady.node (2 * abcReady.nsym - 2)).hasp = false ∧
      (abcReady.node (2 * abcReady.nsym - 2)).w.toNat = abcReady.ftTotal := by decide +kernel
  refine ⟨h.1, h.2.1, h.2.2.1, h.2.2.2.1, h.2.2.2.2, ⟨?_, ?_, ?_⟩, ?_, ?_⟩
  · decide +kernel
  · decide +kernel
  · intro sym _ hp
    have h0 : ∃ i ∈ List.range abcReady.nsym, (abcReady.node i).sym = 0x61#8 := by decide +kernel
    have h1 : ∃ i ∈ List.range abcReady.nsym, (abcReady.node i).sym = 0x62#8 := by decide +kernel
    have h2 : ∃ i ∈ List.range abcReady.nsym, (abcReady.node i).sym = 0x63#8 := by decide +kernel
    rw [ft_abcReady] at hp
    split at hp
    · subst sym; exact h2
    · split at hp
      · subst sym; exact h1
      · split at hp
        · subst sym; exact h0
        · exact absurd hp (by decide)
  · unfold State.internalOk; decide +kernel
  · unfold State.childOk; decide +kernel

theorem mergeOrderOk_abcReady : abcReady.mergeOrderOk := by
  have n : abcReady.nsym = 3 := by decide +kernel
  intro i h1 h2
  obtain rfl | rfl : i = 3 ∨ i = 4 := by omega
  · unfold State.mergedInOrder; decide +kernel
  · unfold State.mergedInOrder; decide +kernel

/-- The order of the children is part of it: "aaabbc" with the children of the root swapped is no tree of BUILD. -/
def abcSwapped : State :=
  { abcReady with
    tree := { abcReady.tree with nodes := putNode abcReady.tree.nodes 4 { abcReady.node 4 with left := 0, right := 3 } } }

theorem swapped_not_mergeOrderOk : ¬abcSwapped.mergeOrderOk := by
  intro h
  have hn : ¬abcSwapped.mergedInOrder 4 := by unfold State.mergedInOrder; decide +kernel
  exact hn (h 4 (by decide +kernel) (by decide +kernel))

theorem mergeOrderOk_oneReady : (oneReady 5 16).mergeOrderOk := by
  have n : (oneReady 5 16).nsym = 1 := by decide +kernel
  intro i h1 h2
  omega

theorem codesOk_oneReady : (oneReady 5 16).codesOk := by
  refine ⟨fun sym _ => ?_, by decide +kernel⟩
  have h : codeAt (oneReady 5 16).codes sym = if sym = 0x41#8 then { has := true, len := 0, bits := 0 } else
      CodeEntry.empty := by
    show codeAt (putCode _ _ _) sym = _
    rw [codeAt_putCode, codeAt_replicate]
    rfl
  rw [h, ft_oneReady]
  split <;> decide

theorem tables_latched {s : State} (w : Word) (h : s.TablesInv) : (s.latched w).TablesInv := h

/-- A valid tree and valid codes, and a step from there (StepKeepsTableInvariant, StepNeverStops). -/
theorem witness_StepKeepsTableInvariant :
    (aabReady.latched 0x4).TablesInv ∧ ∃ t, step (aabReady.latched 0x4) = .next t :=
  ⟨tables_latched 0x4 tables_aabReady, _, eq_next_after (by decide +kernel)⟩

theorem witness_AcceptedCommandCompletes :
    (aabReady.latched 0x8).TablesInv ∧ (aabReady.latched 0x8).rst = false ∧ (aabReady.latched 0x8).busy = true :=
  ⟨tables_latched 0x8 tables_aabReady, rfl, rfl⟩

/-- A command that succeeds (CommandFinishesOrAborts and the frames of all commands). -/
theorem witness_frames_nop : exec .nop aabReady = .next aabReady.finish := rfl

/-- A command that aborts. -/
theorem witness_frames_abort :
    exec .codegen (start 1 1 []) = .next ((start 1 1 []).invalidateCodes.raise .cmdNoTree 0x00000004#32) := rfl

theorem witness_OutputChangesOnlyWhereWritten :
    (start 1 29 []).cfg.legal = true ∧ (∃ t, exec .wrhdr (start 1 29 []) = .next t) ∧ writesOutput .wrhdr = true ∧
      writesOutput .nop = false :=
  ⟨by decide, ⟨_, rfl⟩, rfl, rfl⟩

theorem witness_InputPointerNeverWraps :
    (∃ t, exec .count (start 4 1 aab) = .next t) ∧ (start 4 1 aab).inPtr.toNat ≤ (start 4 1 aab).inLen.toNat :=
  ⟨⟨_, rfl⟩, by decide +kernel⟩

theorem witness_CountCountsInput : (start 3 1 aab).inputOk ∧ { start 3 1 aab with inPtr := 3 }.inputOk := by decide +kernel

/-- IN_EN clear; IN_LEN one past the buffer; IN_PTR one past IN_LEN; and the composites' two cases. -/
theorem witness_StartChecksRefuse :
    State.reset.inEnSample = false ∧ Instr.decode ∈ [.count, .encode false, .encode true, .rdhdr, .decode] ∧
      (let s := { start 16 1 [] with inLen := 17 }
      s.inEnSample = true ∧ s.cfg.ibufSize < s.inLen.toNat) ∧
      (let s := { start 16 1 [] with inLen := 16, inPtr := 17 }
      s.inEnSample = true ∧ s.inLen.toNat < s.inPtr.toNat) ∧
      Instr.decompress ∈ [.compress false, .compress true, .decompress] :=
  ⟨rfl, by decide, by decide, by decide, by decide⟩

theorem witness_SequencingChecksRefuse :
    (start 1 1 []).inputOk ∧ (start 1 1 []).treeValid = false ∧ (start 1 1 []).codeValid = false := by decide +kernel

/-- The largest total that is no error (VT9). -/
theorem witness_BuildMakesValidTree :
    let s := withFt (start 1 1 []) [(0, 0xFFFFFFFFFFFFFFFE), (1, 1)]
    1 ≤ s.nsym ∧ s.ftTotal = 2 ^ 64 - 1 := by decide +kernel

/-- The empty table, and the smallest total that is an error (VT10). -/
theorem witness_BuildRefusesBadTables :
    (start 1 1 []).nsym = 0 ∧
      (let s := withFt (start 1 1 []) [(0, 0xFFFFFFFFFFFFFFFF), (1, 1)]
      s.nsym ≠ 0 ∧ 2 ^ 64 - 1 < s.ftTotal ∧ s.ftTotal = 2 ^ 64) := by decide +kernel

/-- Two nodes of equal weight, and a third index behind them. -/
theorem witness_ResortOrdersByWeightThenIndex :
    let a := (start 1 1 []).tree.nodes
    let q : List NodeIx := [0, 1]
    q.Pairwise (fun i j => nodeWeight a i < nodeWeight a j ∨ (nodeWeight a i = nodeWeight a j ∧ i < j)) ∧
      ∀ i ∈ q, i < (2 : NodeIx) := by decide +kernel

/-- One table over two arenas: an old tree, and the one after reset. -/
theorem witness_BuildDependsOnTableOnly :
    let s := withFt (start 1 1 []) [(0x61, 2), (0x62, 1)]
    aabReady.ft = s.ft ∧ aabReady.tree ≠ s.tree ∧ (∃ t, exec .build aabReady = .next t) ∧ ∃ t, exec .build s = .next t :=
  ⟨rfl, fun h => absurd (congrArg (fun r => r.count) h) (by decide), ⟨_, rfl⟩, ⟨_, rfl⟩⟩

theorem witness_CodegenMakesTreePaths : aabReady.treeValid = true ∧ aabReady.treeOk := ⟨rfl, treeOk_aabReady⟩

/-- Valid codes of two symbols (CodesArePrefixFree, CodeSpellsPathToLeaf, CodeLengthsAreBounded with `n >= 2`). -/
theorem witness_CodesArePrefixFree :
    aabReady.TablesInv ∧ aabReady.codeValid = true ∧ (0x61#8 ≠ 0x62#8) ∧ (codeAt aabReady.codes 0x61).has = true ∧
      (codeAt aabReady.codes 0x62).has = true ∧ 2 ≤ aabReady.nsym :=
  ⟨tables_aabReady, rfl, by decide, by decide +kernel⟩

/-- The code of a single symbol (CodeLengthsAreBounded with `n = 1`). -/
theorem witness_CodeLengthsAreBounded_one :
    (oneReady 5 16).TablesInv ∧ (oneReady 5 16).codeValid = true ∧ (codeAt (oneReady 5 16).codes 0x41).has = true ∧
      (oneReady 5 16).nsym = 1 :=
  ⟨⟨fun _ => ⟨treeOk_oneReady, mergeOrderOk_oneReady⟩, fun _ => ⟨rfl, codesOk_oneReady⟩⟩, rfl, by decide +kernel⟩

/-- An OBUF that the header of three symbols just fills. -/
theorem witness_WrhdrWritesHeader :
    let s := withFt (start 1 38 []) ft321
    s.cfg.legal = true ∧ s.outPtr.toNat + s.headerLength = s.cfg.obufSize := by decide +kernel

/-- An OBUF one byte short, and an OUT_PTR past its end. -/
theorem witness_WrhdrOverflowKeepsPrefix :
    (let s := withFt (start 1 37 []) ft321
    s.cfg.legal = true ∧ s.cfg.obufSize < s.outPtr.toNat + s.headerLength ∧ s.cfg.obufSize - s.outPtr.toNat = 37) ∧
      (let s := { start 1 37 [] with outPtr := 40 }
      s.cfg.legal = true ∧ s.cfg.obufSize < s.outPtr.toNat + s.headerLength ∧ s.cfg.obufSize - s.outPtr.toNat = 0) := by
  decide +kernel

/-- The header in IBUF is the format's, and is what WRHDR writes: both forms of the hypothesis. -/
theorem witness_RdhdrReadsHeaderBack :
    let s := start 38 1 header321
    let src := withFt (start 1 38 []) ft321
    let w := settle (wrhdrBody src)
    exec .wrhdr src = .next w ∧ s.inputOk ∧ 1 ≤ src.nsym ∧ s.inPtr.toNat + src.headerLength = s.inLen.toNat ∧
      s.ibufBytes s.inPtr.toNat src.headerLength = src.headerBytes ∧ src.cfg.legal = true ∧ src.err = false ∧
      w.err = false ∧ s.ibufBytes s.inPtr.toNat src.headerLength = w.obufBytes src.outPtr.toNat src.headerLength :=
  ⟨rfl, by decide +kernel⟩

/-- Two bytes; three bytes that are not the magic; ten bytes; a count of 0; a count of 257. -/
theorem witness_RdhdrRejectsBadHeaders :
    (let s := start 64 1 [0x53, 0x48]
    s.inputOk ∧ s.inputLeft = 2) ∧
      (let s := start 64 1 [0x53, 0x48, 0x58]
      s.inputOk ∧ s.inputLeft = 3 ∧ s.ibufBytes s.inPtr.toNat 3 ≠ [0x53#8, 0x48#8, 0x46#8]) ∧
      (let s := start 64 1 (header321.take 10)
      s.inputOk ∧ s.inputLeft = 10 ∧ s.ibufBytes s.inPtr.toNat 3 = [0x53#8, 0x48#8, 0x46#8]) ∧
      (let s := start 64 1 [0x53, 0x48, 0x46, 0, 0, 0, 0, 0, 0, 0, 0]
      s.inputOk ∧ s.inputLeft = 11 ∧ s.ibufBytes s.inPtr.toNat 3 = [0x53#8, 0x48#8, 0x46#8] ∧
        leNat (s.ibufBytes (s.inPtr.toNat + 3) 8) = 0) ∧
      (let s := start 64 1 [0x53, 0x48, 0x46, 1, 1, 0, 0, 0, 0, 0, 0]
      s.inputOk ∧ s.inputLeft = 11 ∧ s.ibufBytes s.inPtr.toNat 3 = [0x53#8, 0x48#8, 0x46#8] ∧
        leNat (s.ibufBytes (s.inPtr.toNat + 3) 8) = 257) := by decide +kernel

/-- A header cut inside its third entry, and one whose second entry repeats the first. -/
theorem witness_RdhdrRejectsBadEntries :
    (let s := start 64 1 (header321.take 37)
    s.inputOk ∧ s.ibufBytes s.inPtr.toNat 3 = [0x53#8, 0x48#8, 0x46#8] ∧
      leNat (s.ibufBytes (s.inPtr.toNat + 3) 8) = 3 ∧ 11 + 9 * 2 ≤ s.inputLeft ∧
      ((List.range 2).map s.entrySym).Nodup ∧ s.inputLeft < 11 + 9 * (2 + 1)) ∧
      (let s := start 64 1 (header321.take 20 ++ [0x61, 2, 0, 0, 0, 0, 0, 0, 0])
      s.inputOk ∧ s.ibufBytes s.inPtr.toNat 3 = [0x53#8, 0x48#8, 0x46#8] ∧
        leNat (s.ibufBytes (s.inPtr.toNat + 3) 8) = 3 ∧ 11 + 9 * (1 + 1) = s.inputLeft ∧
        ((List.range 1).map s.entrySym).Nodup ∧ s.entrySym 1 ∈ (List.range 1).map s.entrySym) := by decide +kernel

theorem witness_RdhdrEndsAtHeaderEnd :
    (start 38 1 header321).err = false ∧ (start 38 1 header321).inputOk ∧
      exec .rdhdr (start 38 1 header321) = .next (settle (rdhdrBody (start 38 1 header321))) ∧
      (settle (rdhdrBody (start 38 1 header321))).err = false :=
  ⟨rfl, by decide +kernel, rfl, by decide +kernel⟩

/-- Output that just fills OBUF, for either flush. -/
theorem witness_EncodePacksCodes :
    let s := withInput { aabReady with cfg := { ibufSize := 9, obufSize := 2 } } (aab ++ aab ++ aab)
    s.cfg.legal = true ∧ s.inputOk ∧ s.codeValid = true ∧ (∀ b ∈ s.inputBytes, (codeAt s.codes b).has = true) ∧
      s.outPtr.toNat + (packedOutput false (s.messageBits s.inputBytes)).length = s.cfg.obufSize ∧
      s.outPtr.toNat + (packedOutput true (s.messageBits s.inputBytes)).length = s.cfg.obufSize := by decide +kernel

/-- A successful ENCODE. -/
theorem witness_EncodePacksCodes_success :
    let s := withInput aabReady aab
    s.cfg.legal = true ∧ s.err = false ∧ exec (.encode true) s = .next (settle (encodeBody true s)) ∧
      (settle (encodeBody true s)).err = false := ⟨by decide +kernel, rfl, rfl, by decide +kernel⟩

/-- No output, with OUT_PTR past the end of OBUF. -/
theorem witness_EncodePacksCodes_nothing :
    let s := { withInput aabReady [] with outPtr := 5000 }
    s.inputOk ∧ s.codeValid = true ∧ packedOutput false (s.messageBits s.inputBytes) = [] ∧
      s.cfg.obufSize < s.outPtr.toNat := by decide +kernel

/-- Two packed bytes into an OBUF of one. -/
theorem witness_EncodeOverflowKeepsPrefix :
    let s := withInput { aabReady with cfg := { ibufSize := 9, obufSize := 1 } } (aab ++ aab ++ aab)
    s.cfg.legal = true ∧ s.inputOk ∧ s.codeValid = true ∧ (∀ b ∈ s.inputBytes, (codeAt s.codes b).has = true) ∧
      packedOutput true (s.messageBits s.inputBytes) ≠ [] ∧
      s.cfg.obufSize < s.outPtr.toNat + (packedOutput true (s.messageBits s.inputBytes)).length := by decide +kernel

theorem witness_EncodeStopsAtUncodedByte :
    let s := withInput aabReady [0x61, 0x7A, 0x62]
    s.cfg.legal = true ∧ s.inputOk ∧ s.codeValid = true ∧ s.inputBytes = [0x61] ++ 0x7A :: [0x62] ∧
      (∀ a ∈ [0x61#8], (codeAt s.codes a).has = true) ∧ (codeAt s.codes 0x7A).has = false ∧
      s.outPtr.toNat + (s.messageBits [0x61]).length / 8 ≤ s.cfg.obufSize := by decide +kernel

/-- No symbol, with OUT_PTR past the end of OBUF (R222). -/
theorem witness_DecodeRepeatsSingleSymbol_nothing :
    let s := { oneReady 0 4 with outPtr := 9 }
    s.cfg.legal = true ∧ s.inputOk ∧ s.treeValid = true ∧ (nodeAt s.tree.nodes s.tree.root).leaf = true ∧
      s.ftTotal = 0 ∧ s.cfg.obufSize < s.outPtr.toNat + s.ftTotal := by decide +kernel

theorem test_decode_nothing_past_end :
    view (runWord 8 { oneReady 0 4 with outPtr := 9 }) = [0x32, 0, 0, 0, 9] := by decide +kernel

/-- Five symbols into five bytes, and into four. -/
theorem witness_DecodeRepeatsSingleSymbol :
    (let s := oneReady 5 5
    s.cfg.legal = true ∧ s.inputOk ∧ s.treeValid = true ∧ (nodeAt s.tree.nodes s.tree.root).leaf = true ∧
      s.ftTotal ≤ 2 ^ 64 - 1 ∧ s.outPtr.toNat + s.ftTotal = s.cfg.obufSize) ∧
      (let s := oneReady 5 4
      s.cfg.legal = true ∧ s.inputOk ∧ s.treeValid = true ∧ (nodeAt s.tree.nodes s.tree.root).leaf = true ∧
        s.ftTotal ≤ 2 ^ 64 - 1 ∧ s.cfg.obufSize < s.outPtr.toNat + s.ftTotal) := by decide +kernel

theorem witness_DecodeOfNothingFinishes :
    (oneReady 0 1).inputOk ∧ (oneReady 0 1).treeValid = true ∧ (oneReady 0 1).ftTotal = 0 := by decide +kernel

theorem witness_DecodeOfNoInputIsTruncated :
    aabReady.inputOk ∧ aabReady.treeValid = true ∧ (nodeAt aabReady.tree.nodes aabReady.tree.root).leaf = false ∧
      aabReady.ftTotal ≠ 0 ∧ aabReady.ftTotal ≤ 2 ^ 64 - 1 ∧ aabReady.inPtr = aabReady.inLen := by decide +kernel

theorem treeOk_withInput {s : State} (input : List Byte) (h : s.treeOk) : (withInput s input).treeOk := h

theorem witness_DecodeReadsMessageBack :
    let s := withInput aabReady [0x20]
    s.treeOk ∧ s.cfg.legal = true ∧ s.inputOk ∧ s.treeValid = true ∧ 2 ≤ s.nsym ∧ aab.length = s.ftTotal ∧
      (∀ b ∈ aab, (s.ftAt b).present = true) ∧ [0x20#8] = packBits (aab.flatMap s.treeCode) ∧
      s.inPtr.toNat + 1 = s.inLen.toNat ∧ s.ibufBytes s.inPtr.toNat 1 = [0x20#8] ∧
      s.outPtr.toNat + aab.length ≤ s.cfg.obufSize :=
  ⟨treeOk_withInput [0x20] treeOk_aabReady, by decide +kernel⟩

theorem treeOk_of_eq {s t : State} (h : s.treeOk) (hf : t.ft = s.ft) (ht : t.tree = s.tree) : t.treeOk := by
  cases s
  cases t
  dsimp only at hf ht
  subst hf ht
  exact h

/-- The first five symbols of "aaabbc" and one bit of a sixth, into an OBUF of five bytes. -/
theorem witness_DecodeAbortsKeepPrefix_truncated :
    let s := { withInput abcReady [0xE0] with cfg := { ibufSize := 1, obufSize := 5 } }
    let msg : List Byte := [0x61, 0x61, 0x61, 0x62, 0x62]
    s.treeOk ∧ s.cfg.legal = true ∧ s.inputOk ∧ s.treeValid = true ∧ 2 ≤ s.nsym ∧
      unpackBits s.inputBytes = msg.flatMap s.treeCode ++ [false] ∧ (∀ b ∈ msg, (s.ftAt b).present = true) ∧
      (s.ftAt 0x62).present = true ∧ [false] <+: s.treeCode 0x62 ∧ [false] ≠ s.treeCode 0x62 ∧ msg.length < s.ftTotal ∧
      s.outPtr.toNat + msg.length = s.cfg.obufSize :=
  ⟨treeOk_of_eq treeOk_abcReady rfl rfl, by decide +kernel⟩

/-- The fifth symbol finds an OBUF of four bytes full; and the first one an OUT_PTR past the end. -/
theorem witness_DecodeAbortsKeepPrefix_overflow :
    (let s := { withInput abcReady [0xE0] with cfg := { ibufSize := 1, obufSize := 4 } }
    let msg : List Byte := [0x61, 0x61, 0x61, 0x62]
    s.treeOk ∧ s.cfg.legal = true ∧ s.inputOk ∧ s.treeValid = true ∧ 2 ≤ s.nsym ∧
      (msg ++ [0x62]).flatMap s.treeCode <+: unpackBits s.inputBytes ∧ (∀ b ∈ msg, (s.ftAt b).present = true) ∧
      (s.ftAt 0x62).present = true ∧ msg.length < s.ftTotal ∧ msg.length = s.cfg.obufSize - s.outPtr.toNat) ∧
      (let s := { withInput abcReady [0xE0] with cfg := { ibufSize := 1, obufSize := 4 }, outPtr := 9 }
      s.treeOk ∧ s.inputOk ∧ ([] ++ [0x61#8]).flatMap s.treeCode <+: unpackBits s.inputBytes ∧
        0 = s.cfg.obufSize - s.outPtr.toNat) :=
  ⟨⟨treeOk_of_eq treeOk_abcReady rfl rfl, by decide +kernel⟩, treeOk_of_eq treeOk_abcReady rfl rfl, by decide +kernel⟩

theorem witness_CompressWritesArchive :
    let s := start 2 2379 [0x61, 0x62]
    s.cfg.legal = true ∧ s.inEnSample = true ∧ 1 ≤ s.inLen.toNat ∧ s.inLen.toNat = s.cfg.ibufSize ∧
      2315 + 32 * s.inLen.toNat = s.cfg.obufSize := by decide +kernel

theorem witness_CompressRefusesEmptyInput : (start 1 1 []).inEnSample = true ∧ (start 1 1 []).inLen = 0#32 := by decide

def c0 : State := start 4096 4096 aab
def c1 : State := settle (countBody c0.rewind)
def c2 : State := settle (buildBody c1)
def c3 : State := after (exec .codegen c2)
def c4 : State := settle (wrhdrBody c3)
def c5 : State := settle (encodeBody false { c4 with inPtr := 0 })

/-- The states between the steps of a compression. -/
theorem witness_WholeOperationsAreTheirSteps_compress :
    c0.err = false ∧ exec .count c0.rewind = .next c1 ∧ exec .build c1 = .next c2 ∧ exec .codegen c2 = .next c3 ∧
      exec .wrhdr c3 = .next c4 ∧ exec (.encode false) { c4 with inPtr := 0#32 } = .next c5 ∧
      (c1.err = false ∧ c2.err = false ∧ c3.err = false ∧ c4.err = false ∧ c5.err = false) :=
  ⟨rfl, rfl, rfl, eq_next_after (by decide +kernel), rfl, rfl, by decide +kernel⟩

def d0 : State := start 4096 4096 (header321 ++ [0xE0, 0x80])
def d1 : State := settle (rdhdrBody d0.rewind)
def d2 : State := settle (buildBody d1)
def d3 : State := settle (decodeBody d2)

/-- An OBUF that the archive of "aab" just fills: 30 bytes. -/
theorem witness_CompressWritesArchive_exact :
    let s := start 4096 30 aab
    let c := after (exec .codegen (settle (buildBody (settle (countBody s.rewind)))))
    codedFrom s c ∧ (s.cfg.legal = true ∧ s.inEnSample = true ∧ 1 ≤ s.inLen.toNat ∧ s.inLen.toNat ≤ s.cfg.ibufSize ∧
      c.headerLength + (packedOutput false (c.messageBits (s.ibufBytes 0 s.inLen.toNat))).length = s.cfg.obufSize) :=
  ⟨⟨_, _, rfl, rfl, eq_next_after (by decide +kernel)⟩, by decide +kernel⟩

/-- The states between the steps of a decompression. -/
theorem witness_WholeOperationsAreTheirSteps_decompress :
    d0.err = false ∧ exec .rdhdr d0.rewind = .next d1 ∧ exec .build d1 = .next d2 ∧ exec .decode d2 = .next d3 ∧
      (d1.err = false ∧ d2.err = false ∧ d3.err = false) :=
  ⟨rfl, rfl, rfl, rfl, by decide +kernel⟩

/-- A count of 0, and a count that just fills OBUF. -/
theorem witness_DecompressSingleSymbolArchive :
    (let s := start 20 5 ([0x53, 0x48, 0x46, 1, 0, 0, 0, 0, 0, 0, 0] ++ [0x41, 0, 0, 0, 0, 0, 0, 0, 0])
    s.cfg.legal = true ∧ s.inEnSample = true ∧ s.inLen.toNat ≤ s.cfg.ibufSize ∧ 20 ≤ s.inLen.toNat ∧
      s.ibufBytes 0 20 = [0x53#8, 0x48#8, 0x46#8] ++ leBytes8 1#64 ++ 0x41#8 :: leBytes8 0#64) ∧
      (let s := start 20 5 ([0x53, 0x48, 0x46, 1, 0, 0, 0, 0, 0, 0, 0] ++ [0x41, 5, 0, 0, 0, 0, 0, 0, 0])
      s.cfg.legal = true ∧ s.inEnSample = true ∧ s.inLen.toNat ≤ s.cfg.ibufSize ∧ 20 ≤ s.inLen.toNat ∧
        s.ibufBytes 0 20 = [0x53#8, 0x48#8, 0x46#8] ++ leBytes8 1#64 ++ 0x41#8 :: leBytes8 5#64 ∧
        (5#64).toNat = s.cfg.obufSize) := by decide +kernel

theorem witness_DecompressReadsArchive :
    let s := start 30 3 ([0x53, 0x48, 0x46, 2, 0, 0, 0, 0, 0, 0, 0, 0x61, 2, 0, 0, 0, 0, 0, 0, 0, 0x62, 1, 0, 0, 0, 0, 0, 0,
      0, 0x20])
    let src := withFt (start 1 1 []) [(0x61, 2), (0x62, 1)]
    let built := settle (buildBody src)
    exec .build src = .next built ∧ s.cfg.legal = true ∧ s.inEnSample = true ∧ s.inLen.toNat ≤ s.cfg.ibufSize ∧
      1 ≤ src.nsym ∧ src.ftTotal ≤ 2 ^ 64 - 1 ∧ aab.length = src.ftTotal ∧ (∀ b ∈ aab, (src.ftAt b).present = true) ∧
      [0x20#8] = packBits (aab.flatMap built.treeCode) ∧ src.headerLength + 1 = s.inLen.toNat ∧
      s.ibufBytes 0 (src.headerLength + 1) = src.headerBytes ++ [0x20#8] ∧ aab.length = s.cfg.obufSize :=
  ⟨rfl, by decide +kernel⟩

/-- An archive of one symbol: the header alone, and a message of five. -/
theorem witness_DecompressReadsArchive_one :
    let s := start 20 5 ([0x53, 0x48, 0x46, 1, 0, 0, 0, 0, 0, 0, 0] ++ [0x41, 5, 0, 0, 0, 0, 0, 0, 0])
    let src := withFt (start 1 1 []) [(0x41, 5)]
    let built := settle (buildBody src)
    let msg : List Byte := [0x41, 0x41, 0x41, 0x41, 0x41]
    exec .build src = .next built ∧ s.cfg.legal = true ∧ s.inEnSample = true ∧ s.inLen.toNat ≤ s.cfg.ibufSize ∧
      src.nsym = 1 ∧ src.ftTotal ≤ 2 ^ 64 - 1 ∧ msg.length = src.ftTotal ∧ (∀ b ∈ msg, (src.ftAt b).present = true) ∧
      [] = packBits (msg.flatMap built.treeCode) ∧ src.headerLength = s.inLen.toNat ∧
      s.ibufBytes 0 src.headerLength = src.headerBytes ∧ msg.length = s.cfg.obufSize :=
  ⟨rfl, by decide +kernel⟩

/-- An archive of "abbbbbbbb", with the flush modifier `z`, and a machine with that archive in IBUF. -/
def packedAbbb (z : Bool) : State := after (exec (.compress z) (start 9 64 abbb))

def holdingAbbb (z : Bool) : State :=
  { start 64 9 [] with ibuf := (packedAbbb z).obuf, inLen := (packedAbbb z).outPtr }

/-- The case that decompresses, with `Z = 0`. -/
theorem witness_DecompressInvertsCompress :
    let s := start 9 64 abbb
    let t := packedAbbb false
    let u := holdingAbbb false
    exec (.compress false) s = .next t ∧ (s.cfg.legal = true ∧ s.err = false ∧ s.inEnSample = true ∧ 1 ≤ s.inLen.toNat ∧
      s.inLen.toNat ≤ s.cfg.ibufSize ∧ t.err = false ∧ u.cfg.legal = true ∧ u.inEnSample = true ∧ u.inLen = t.outPtr ∧
      t.outPtr.toNat ≤ u.cfg.ibufSize ∧ u.ibufBytes 0 t.outPtr.toNat = t.obufBytes 0 t.outPtr.toNat ∧
      s.inLen.toNat ≤ u.cfg.obufSize ∧
      packedOutput false (t.messageBits (s.ibufBytes 0 s.inLen.toNat)) =
        packBits (t.messageBits (s.ibufBytes 0 s.inLen.toNat))) :=
  ⟨eq_next_after (by decide +kernel), by decide +kernel⟩

/-- The case of the dropped last byte, with `Z = 1`. -/
theorem witness_DecompressInvertsCompress_dropped :
    let s := start 9 64 abbb
    let t := packedAbbb true
    let u := holdingAbbb true
    exec (.compress true) s = .next t ∧ (s.cfg.legal = true ∧ s.err = false ∧ s.inEnSample = true ∧ 1 ≤ s.inLen.toNat ∧
      s.inLen.toNat ≤ s.cfg.ibufSize ∧ t.err = false ∧ u.cfg.legal = true ∧ u.inEnSample = true ∧ u.inLen = t.outPtr ∧
      t.outPtr.toNat ≤ u.cfg.ibufSize ∧ u.ibufBytes 0 t.outPtr.toNat = t.obufBytes 0 t.outPtr.toNat ∧
      s.inLen.toNat ≤ u.cfg.obufSize ∧
      packedOutput true (t.messageBits (s.ibufBytes 0 s.inLen.toNat)) ≠
        packBits (t.messageBits (s.ibufBytes 0 s.inLen.toNat))) :=
  ⟨eq_next_after (by decide +kernel), by decide +kernel⟩

/-- Two machines with one input, and different tables, output and selectors. -/
theorem witness_CompressIsDeterministic :
    let s := start 4096 4096 aab
    let s' := { withFt (start 4096 4096 aab) ft321 with obuf := [(0, 9)], outPtr := 7, codeSel := 3, acc := 5 }
    s ≠ s' ∧ (s.cfg = s'.cfg ∧ s.cfg.legal = true ∧ s.inEnSample = s'.inEnSample ∧ s.inLen = s'.inLen ∧
      s.ibufBytes 0 s.inLen.toNat = s'.ibufBytes 0 s.inLen.toNat ∧ s.err = false ∧ s'.err = false) ∧
      (∃ t, exec (.compress false) s = .next t) ∧ ∃ t, exec (.compress false) s' = .next t :=
  ⟨by decide +kernel, by decide +kernel, ⟨_, eq_next_after (by decide +kernel)⟩, ⟨_, eq_next_after (by decide +kernel)⟩⟩

/-- A legal word and an illegal one, accepted by an idle block. -/
theorem witness_AcceptanceLatchesCommand :
    aabReady.busy = false ∧ (∃ i, decode 0x00000110#32 = .ok i) ∧ ∀ i, decode 0x00000200#32 ≠ .ok i :=
  ⟨rfl, ⟨.compress true, by decide⟩, no_command_0x200⟩

/-- An idle state and a busy one, a command word, and a command that answers a next state. -/
theorem witness_CommandTakesInEnAtAcceptance :
    aabReady.busy = false ∧ decode 0x00000002#32 = .ok .count ∧ (aabReady.latched 2).busy = true ∧
      ∃ t, exec .count aabReady = .next t := ⟨rfl, by decide, rfl, _, rfl⟩

/-- Datum bits beyond each selector's width, and the first and last read-only registers. -/
theorem witness_RegisterWritesStore :
    aabReady.busy = false ∧
      [(aabReady.hostWrite 0x40 .word 0xFFFFFFFF).nodeSel.toNat, (aabReady.hostWrite 0x68 .word 0xFFFFFFFF).codeWsel.toNat] =
        [0x1FF, 7] ∧
      (0x0C : Word) ∈ ([0x0C, 0x10, 0x30, 0x44, 0x48, 0x4C, 0x50, 0x54, 0x64, 0x6C] : List Word) ∧
      (0x6C : Word) ∈ ([0x0C, 0x10, 0x30, 0x44, 0x48, 0x4C, 0x50, 0x54, 0x64, 0x6C] : List Word) := by decide +kernel

theorem witness_FtWindowWritesEntry :
    { aabReady with ftSel := 0xFF }.busy = false ∧
      ∃ t, t = { aabReady with ftSel := 0xFF }.hostWrite 0x00000024#32 .word 1 := ⟨rfl, _, rfl⟩

theorem witness_BusyWritesAreRefused :
    ((start 1 1 []).latched 2).busy = true ∧
      (0x68 : Word) ∈ ([0x00, 0x14, 0x18, 0x1C, 0x20, 0x24, 0x28, 0x2C, 0x40, 0x60, 0x68] : List Word) ∧
      0x40000000 ≤ (0x40000000#32).toNat := by decide

/-- A narrow, a misaligned and a reserved register access, the first unmapped address, a buffer access at and past the end. -/
theorem witness_ErroneousAccessesSetHerr :
    let s := start 16 16 []
    erroneousAccess s 0x04 .half ∧ erroneousAccess s 0x06 .word ∧ erroneousAccess s 0x34 .word ∧
      erroneousAccess s 0x100 .word ∧ erroneousAccess s 0x3FFFFFFF .byte ∧ erroneousAccess s 0x40000010 .byte ∧
      erroneousAccess s 0x40000001 .half ∧ erroneousAccess s 0x80000010 .word := by
  refine ⟨?_, ?_, ?_, ?_, ?_, ?_, ?_, ?_⟩ <;> (unfold erroneousAccess; decide)

/-- Accesses that are not erroneous, at the edges of the three regions (ReadsHaveNoSideEffects). -/
theorem witness_ReadsHaveNoSideEffects :
    let s := start 16 16 []
    ¬erroneousAccess s 0x6C .word ∧ ¬erroneousAccess s 0x4000000F .byte ∧ ¬erroneousAccess s 0x8000000C .word ∧
      s.busy = false := by
  refine ⟨?_, ?_, ?_, ?_⟩ <;> (try unfold erroneousAccess) <;> decide

/-- A register's offset, and the last byte of each buffer (ReadsHaveNoSideEffects). -/
theorem witness_ReadsHaveNoSideEffects_values :
    let s := start 16 16 []
    s.busy = false ∧ s.cfg.legal = true ∧ 0x0000006C#32 = BitVec.ofNat 32 Reg.codeWord.offset ∧
      15 % Size.byte.bytes = 0 ∧ 15 + Size.byte.bytes = s.cfg.ibufSize ∧ 15 + Size.byte.bytes = s.cfg.obufSize ∧
      0x4000000F#32 = BitVec.ofNat 32 (0x40000000 + 15) ∧ 0x8000000F#32 = BitVec.ofNat 32 (0x80000000 + 15) := by decide

/-- The last word of each buffer. -/
theorem witness_BufferAccessesReadBack :
    let s := start 16 16 []
    s.cfg.legal = true ∧ s.busy = false ∧ 12 % Size.word.bytes = 0 ∧ 12 + Size.word.bytes = s.cfg.ibufSize ∧
      12 + Size.word.bytes = s.cfg.obufSize := by decide

/-- The last node, the first index past the arena's count, and an invalid tree. -/
theorem witness_TableWindowsShowTables :
    aabReady.treeValid = true ∧ aabReady.codeValid = true ∧
      { aabReady with nodeSel := 2 }.nodeSel.toNat < aabReady.tree.count.val ∧
      aabReady.tree.count.val ≤ { aabReady with nodeSel := 3 }.nodeSel.toNat ∧ State.reset.treeValid = false ∧
      State.reset.codeValid = false :=
  ⟨rfl, rfl, by decide +kernel, by decide +kernel, rfl, rfl⟩

end Sys2Proof.Tests
end

section
/-! SUPPORT. What a command's pseudocode can do to the state, said once: a list of elementary writes, and every body is a
sequence of them. An invariant of commands is then one small goal per elementary write. -/

namespace Sys2Proof.Machine

/-! ### Elementary writes -/

/-- The elementary writes of the eleven command bodies. None of them touches the host's side, CTRL, IN_LEN, the selectors, IBUF,
SEQ, DONE, ERR, HERR or the error record. -/
inductive EngineMove : State → State → Prop where
  /-- IN_PTR changes: a fetch (R75), or a whole operation going back to the start of the input. -/
  | inPtr (s : State) (p : Word) : EngineMove s { s with inPtr := p }
  /-- Both pointers go back to 0 (R242, R243). -/
  | rewind (s : State) : EngineMove s s.rewind
  /-- One byte is appended to the output, where OBUF has room for it (R77). -/
  | emit (s : State) (v : Byte) (room : s.outPtr.toNat < s.cfg.obufSize) : EngineMove s (s.wrote [v])
  /-- One entry of the frequency table is written (R142, R163). -/
  | putFt (s : State) (sym : Byte) (e : FtEntry) : EngineMove s (s.putFt sym e)
  /-- The frequency table is emptied (R141). -/
  | clearFt (s : State) : EngineMove s s.clearFt
  /-- TREE_VALID is cleared, and CODE_VALID with it (R58). -/
  | invalidateTree (s : State) : EngineMove s s.invalidateTree
  /-- CODE_VALID is cleared (R60). -/
  | invalidateCodes (s : State) : EngineMove s s.invalidateCodes
  /-- BUILD stores a tree (R181). -/
  | storeTree (s : State) (tree : Tree) (q : List NodeIx) :
      EngineMove s { s with tree := tree, mergeQ := q, treeValid := true }
  /-- CODEGEN stores the codes of a valid tree (R190). -/
  | storeCodes (s : State) (codes : Vector CodeEntry 256) (valid : s.treeValid = true) :
      EngineMove s { s with codes := codes, codeValid := true }
  /-- The encoder's accumulator changes (R200, R201). -/
  | pack (s : State) (acc : Byte) (nacc : Fin 9) : EngineMove s { s with acc := acc, nacc := nacc }
  /-- The decoder's walk state changes (R220). -/
  | walk (s : State) (w : Walk) : EngineMove s { s with walk := w }

/-- `t` comes from `s` by elementary writes. -/
abbrev Reaches : State → State → Prop := Relation.ReflTransGen EngineMove

/-- What is kept by each elementary write is kept by any sequence of them. -/
theorem Reaches.keeps {P : State → Prop} (keep : ∀ {s t}, EngineMove s t → P s → P t) {s t : State} (hst : Reaches s t)
    (hs : P s) : P t := by
  induction hst with
  | refl => exact hs
  | tail _ hmove ih => exact keep hmove ih

/-! ### Pieces of pseudocode -/

/-- A value satisfies `Q`, an error satisfies `E`. -/
def Post {ε α : Type} (E : ε → Prop) (Q : α → Prop) : Except ε α → Prop
  | .ok a => Q a
  | .error e => E e

/-- The rule of sequential composition. -/
theorem Post.bind {ε α β : Type} {E : ε → Prop} {Q : α → Prop} {Q' : β → Prop} {r : Except ε α} {f : α → Except ε β}
    (hr : Post E Q r) (hf : ∀ a, Q a → Post E Q' (f a)) : Post E Q' (r >>= f) := by
  cases r with
  | ok a => exact hf a hr
  | error e => exact hr

/-- Run from `s`, the piece `r` makes elementary writes only, up to the state `out` reads off its value, or up to the state in
which it raises. -/
def RunReaches {α : Type} (out : α → State) (s : State) (r : Run α) : Prop :=
  Post (fun e => Reaches s e.state) (fun a => Reaches s (out a)) r

section RunReaches
variable {α β : Type} {out : α → State} {out' : β → State} {s t : State}

theorem RunReaches.ok {a : α} (h : Reaches s (out a)) : RunReaches out s (.ok a) := h

theorem RunReaches.error {e : Raise} (h : Reaches s e.state) : RunReaches out s (.error e) := h

theorem RunReaches.trans {r : Run α} (hst : Reaches s t) (hr : RunReaches out t r) : RunReaches out s r := by
  cases r with
  | ok a => exact Relation.ReflTransGen.trans hst hr
  | error e => exact Relation.ReflTransGen.trans hst hr

/-- An elementary write, and then a piece. -/
theorem RunReaches.after {r : Run α} (hst : EngineMove s t) (hr : RunReaches out t r) : RunReaches out s r :=
  .trans (.single hst) hr

theorem RunReaches.bind {r : Run α} {f : α → Run β} (hr : RunReaches out s r)
    (hf : ∀ a, RunReaches out' (out a) (f a)) : RunReaches out' s (r >>= f) :=
  Post.bind hr fun a ha => RunReaches.trans ha (hf a)

end RunReaches

/-- A piece that may get stuck makes elementary writes only, unless it gets stuck. -/
def StopReaches (s : State) (r : Except Stop State) : Prop :=
  Post (fun | .raised e => Reaches s e.state | .stuck _ => True) (Reaches s) r

theorem StopReaches.bind {s : State} {r : Except Stop State} {f : State → Except Stop State} (hr : StopReaches s r)
    (hf : ∀ t, Reaches s t → StopReaches s (f t)) : StopReaches s (r >>= f) :=
  Post.bind hr hf

theorem StopReaches.trans {s t : State} {r : Except Stop State} (hst : Reaches s t) (hr : StopReaches t r) :
    StopReaches s r := by
  match r with
  | .ok _ => exact Relation.ReflTransGen.trans hst hr
  | .error (.raised _) => exact Relation.ReflTransGen.trans hst hr
  | .error (.stuck _) => trivial

theorem StopReaches.liftRun {s : State} {r : Run State} (hr : RunReaches id s r) : StopReaches s (liftRun r) := by
  cases r with
  | ok a => exact hr
  | error e => exact hr

/-! ### The shared operations -/

theorem fetch_move {s t : State} {b : Byte} (h : s.fetch = (b, t)) : EngineMove s t := by
  obtain ⟨-, rfl⟩ := Prod.mk.inj h
  exact .inPtr s _

theorem readLe8_move {s t : State} {c : Count} (h : s.readLe8 = (c, t)) : EngineMove s t := by
  rw [State.readLe8_eq] at h
  obtain ⟨-, rfl⟩ := Prod.mk.inj h
  exact .inPtr s _

theorem need_reaches (s : State) (k : Nat) (info : Word) : RunReaches (fun _ => s) s (s.need k info) := by
  rcases s.need_cases k info with ⟨_, h⟩ | ⟨_, h⟩ <;> rw [h] <;> exact Relation.ReflTransGen.refl

theorem inputChecks_reaches (s : State) : RunReaches (fun _ => s) s s.inputChecks := by
  rcases s.inputChecks_cases with ⟨_, h⟩ | ⟨_, h⟩ | ⟨_, _, h⟩ <;> rw [h] <;> exact Relation.ReflTransGen.refl

theorem emit_reaches (s : State) (v : Byte) : RunReaches id s (s.emit v) := by
  rcases s.emit_cases v with ⟨room, h⟩ | ⟨_, h⟩ <;> rw [h]
  · exact .ok (.single (.emit s v room))
  · exact .error .refl

theorem emitMany_reaches (bs : List Byte) (s : State) : RunReaches id s (State.emitMany bs s) := by
  induction bs generalizing s with
  | nil => exact .ok .refl
  | cons b bs ih => exact (emit_reaches s b).bind ih

/-! ### CLEAR and COUNT -/

theorem clearBody_reaches (s : State) : RunReaches id s (clearBody s) := .ok (.single (.clearFt s))

theorem countLoop_reaches (k : Nat) (s : State) : Reaches s (countLoop k s) := by
  induction k generalizing s with
  | zero => exact .refl
  | succ k ih => exact .head (fetch_move rfl) (.head (.putFt _ _ _) (ih _))

theorem countBody_reaches (s : State) : RunReaches id s (countBody s) :=
  (inputChecks_reaches s).bind fun _ => .ok (.head (.clearFt s) (countLoop_reaches _ _))

/-! ### BUILD and CODEGEN -/

theorem buildBody_reaches (s : State) : RunReaches id s (buildBody s) := by
  refine .after (.invalidateTree s) ?_
  unfold buildBody
  dsimp only
  split
  · exact .error .refl
  · split
    · exact .error .refl
    · exact .ok (.single (.storeTree _ _ _))

theorem codegenBody_reaches (s : State) : StopReaches s (codegenBody s) := by
  refine .trans (.single (.invalidateCodes s)) ?_
  unfold codegenBody
  dsimp only
  split
  · exact Relation.ReflTransGen.refl
  next hv =>
    have valid : s.invalidateCodes.treeValid = true := by simpa using hv
    split
    · trivial
    · exact Relation.ReflTransGen.single (.storeCodes _ _ valid)

/-! ### WRHDR and RDHDR -/

theorem writeEntries_reaches (syms : List Byte) (s : State) : RunReaches id s (writeEntries syms s) := by
  induction syms generalizing s with
  | nil => exact .ok .refl
  | cons sym rest ih =>
    unfold writeEntries
    split
    · exact (emit_reaches s sym).bind fun t => (emitMany_reaches _ t).bind ih
    · exact ih s

theorem wrhdrBody_reaches (s : State) : RunReaches id s (wrhdrBody s) :=
  (emitMany_reaches magic s).bind fun t => (emitMany_reaches _ t).bind (writeEntries_reaches allSymbols)

theorem readEntries_reaches (k i : Nat) (s : State) : RunReaches id s (readEntries k i s) := by
  induction k generalizing i s with
  | zero => exact .ok .refl
  | succ k ih =>
    refine (need_reaches s 9 _).bind fun _ => ?_
    split
    next sym t hsym =>
    split
    next c u hc =>
    refine .after (fetch_move hsym) (.after (readLe8_move hc) ?_)
    split
    · exact .error .refl
    · exact .after (.putFt _ _ _) (ih _ _)

theorem rdhdrBody_reaches (s : State) : RunReaches id s (rdhdrBody s) := by
  refine (inputChecks_reaches s).bind fun _ => .after (.clearFt s) ((need_reaches _ 3 _).bind fun _ => ?_)
  split
  next m0 s0 h0 =>
  split
  next m1 s1 h1 =>
  split
  next m2 s2 h2 =>
  refine .after (fetch_move h0) (.after (fetch_move h1) (.after (fetch_move h2) ?_))
  split
  · exact .error .refl
  · refine (need_reaches _ 8 _).bind fun _ => ?_
    split
    next cnt t hcnt =>
    refine .after (readLe8_move hcnt) ?_
    split
    · exact .error .refl
    · split
      · exact .error .refl
      · exact readEntries_reaches _ _ _

/-! ### ENCODE -/

theorem pushBit_reaches (b : Bool) (s : State) : RunReaches id s (pushBit b s) := by
  unfold pushBit
  refine .after (.pack s (writeBit s.acc (7 - s.nacc.val) b) (s.nacc + 1)) ?_
  dsimp only
  split
  · exact (emit_reaches _ _).bind fun t => .ok (.single (.pack t 0 0))
  · exact .ok .refl

theorem pushBits_reaches (bs : List Bool) (s : State) : RunReaches id s (pushBits bs s) := by
  induction bs generalizing s with
  | nil => exact .ok .refl
  | cons b bs ih => exact (pushBit_reaches b s).bind ih

theorem encodeOne_reaches (s : State) : RunReaches id s (encodeOne s) := by
  unfold encodeOne
  split
  next sym t hsym =>
  refine .after (fetch_move hsym) ?_
  split
  · exact .error .refl
  · exact pushBits_reaches _ _

theorem encodeLoop_reaches (k : Nat) (s : State) : RunReaches id s (encodeLoop k s) := by
  induction k generalizing s with
  | zero => exact .ok .refl
  | succ k ih => exact (encodeOne_reaches s).bind ih

theorem flush_reaches (z : Bool) (s : State) : RunReaches id s (flush z s) := by
  have reset : ∀ t : State, RunReaches id t (.ok { t with acc := 0, nacc := 0 }) := fun t => .ok (.single (.pack t 0 0))
  unfold flush
  split <;> split
  · exact (emit_reaches s _).bind reset
  · exact reset s
  · exact (emit_reaches s _).bind reset
  · exact reset s

theorem encodeBody_reaches (z : Bool) (s : State) : RunReaches id s (encodeBody z s) := by
  refine (inputChecks_reaches s).bind fun _ => ?_
  dsimp only
  split
  · exact .error .refl
  · exact .after (.pack s 0 0) ((encodeLoop_reaches _ _).bind (flush_reaches z))

/-! ### DECODE -/

theorem emitRoot_reaches (sym : Byte) (k : Nat) (s : State) : RunReaches id s (emitRoot sym k s) := by
  induction k generalizing s with
  | zero => exact .ok .refl
  | succ k ih => exact (emit_reaches s sym).bind fun t => .after (.walk t _) (ih _)

theorem walkBit_reaches (s : State) : RunReaches Prod.snd s (walkBit s) := by
  unfold walkBit
  extract_lets x cur
  refine .after (.walk s { s.walk with cur := cur }) ?_
  dsimp only
  split
  · exact (emit_reaches _ _).bind fun t => RunReaches.ok (out := Prod.snd) (.single (.walk t _))
  · exact .ok .refl

theorem walkByte_reaches (pos : Nat) (s : State) : RunReaches id s (walkByte pos s) := by
  induction pos generalizing s with
  | zero => exact .after (.walk s _) ((walkBit_reaches _).bind fun _ => .ok .refl)
  | succ pos ih =>
    refine .after (.walk s _) ((walkBit_reaches _).bind fun p => ?_)
    obtain ⟨last, t⟩ := p
    dsimp only
    split
    · exact .ok .refl
    · exact ih t

theorem decodeLoop_reaches (k : Nat) (s : State) : RunReaches id s (decodeLoop k s) := by
  induction k generalizing s with
  | zero =>
    unfold decodeLoop
    split
    · exact .error .refl
    · exact .ok .refl
  | succ k ih =>
    unfold decodeLoop
    split
    · exact .after (fetch_move rfl) (.after (.walk _ _) ((walkByte_reaches 7 _).bind ih))
    · exact .ok .refl

theorem decodeBody_reaches (s : State) : RunReaches id s (decodeBody s) := by
  refine (inputChecks_reaches s).bind fun _ => ?_
  dsimp only
  split
  · exact .error .refl
  · refine .after (.walk s { s.walk with total := BitVec.ofNat 64 s.ftTotal, emitted := 0 }) ?_
    split
    · exact emitRoot_reaches _ _ _
    · exact .after (.walk _ _) (decodeLoop_reaches _ _)

/-! ### The whole operations and completion -/

theorem compressBody_reaches (z : Bool) (s : State) : StopReaches s (compressBody z s) := by
  refine .trans (.single (.rewind s)) ?_
  refine .bind (.liftRun (countBody_reaches _)) fun s1 h1 => .trans h1 ?_
  refine .bind (.liftRun (buildBody_reaches _)) fun s2 h2 => .trans h2 ?_
  refine .bind (codegenBody_reaches _) fun s3 h3 => .trans h3 ?_
  refine .bind (.liftRun (wrhdrBody_reaches _)) fun s4 h4 => .trans h4 ?_
  exact .trans (.single (.inPtr s4 0)) (.liftRun (encodeBody_reaches z _))

theorem decompressBody_reaches (s : State) : RunReaches id s (decompressBody s) :=
  .after (.rewind s) ((rdhdrBody_reaches _).bind fun t => (buildBody_reaches t).bind decodeBody_reaches)

/-- `t` is a completion step of `u`: successful, or with a cause and an information word (R265, R268). -/
def Completes (u t : State) : Prop := t = u.finish ∨ ∃ c info, t = u.raise c info

theorem settle_completes {s : State} {r : Run State} (hr : RunReaches id s r) :
    ∃ u, Reaches s u ∧ Completes u (settle r) := by
  cases r with
  | ok u => exact ⟨u, hr, .inl rfl⟩
  | error e => exact ⟨e.state, hr, .inr ⟨e.cause, e.info, rfl⟩⟩

theorem settleStop_completes {s t : State} {r : Except Stop State} (hr : StopReaches s r) (ht : settleStop r = .next t) :
    ∃ u, Reaches s u ∧ Completes u t := by
  match r with
  | .ok u => exact ⟨u, hr, .inl (Host.Outcome.next.inj ht).symm⟩
  | .error (.raised e) => exact ⟨e.state, hr, .inr ⟨e.cause, e.info, (Host.Outcome.next.inj ht).symm⟩⟩

/-- Everything a command can do: elementary writes, and then one completion step. -/
theorem exec_completes {i : Instr} {s t : State} (h : exec i s = .next t) : ∃ u, Reaches s u ∧ Completes u t := by
  have run : ∀ {r : Run State}, RunReaches id s r → Host.Outcome.next (settle r) = exec i s →
      ∃ u, Reaches s u ∧ Completes u t := fun hr he =>
    Host.Outcome.next.inj (he.trans h) ▸ settle_completes hr
  cases i with
  | nop => exact ⟨s, .refl, .inl (Host.Outcome.next.inj h).symm⟩
  | clear => exact run (clearBody_reaches s) rfl
  | count => exact run (countBody_reaches s) rfl
  | build => exact run (buildBody_reaches s) rfl
  | codegen => exact settleStop_completes (codegenBody_reaches s) h
  | wrhdr => exact run (wrhdrBody_reaches s) rfl
  | encode z => exact run (encodeBody_reaches z s) rfl
  | rdhdr => exact run (rdhdrBody_reaches s) rfl
  | decode => exact run (decodeBody_reaches s) rfl
  | compress z => exact settleStop_completes (compressBody_reaches z s) h
  | decompress => exact run (decompressBody_reaches s) rfl

end Sys2Proof.Machine
end

section
/-! SUPPORT. The structural invariant under each event: reset, elementary writes, acceptance, completion, host accesses. -/

namespace Sys2Proof.Machine

/-! ### Buffers -/

/-- A buffer in canonical form that holds nothing at or beyond offset `size` (R70, R71). -/
def Memory.Fits (m : Memory) (size : Nat) : Prop := m.wf ∧ ∀ c ∈ m, c.1 < size

theorem State.buffersOk_iff (s : State) : s.buffersOk ↔ s.ibuf.Fits s.cfg.ibufSize ∧ s.obuf.Fits s.cfg.obufSize := by
  unfold State.buffersOk Memory.Fits
  tauto

theorem Memory.Fits.put {m : Memory} {size i : Nat} (h : m.Fits size) (hi : i < size) (v : Byte) : (m.put i v).Fits size := by
  obtain ⟨hwf, hin⟩ := h
  refine ⟨Memory.put_wf m i v hwf, fun c hc => ?_⟩
  rcases Memory.mem_put m i v c hc with rfl | hc
  · exact hi
  · exact hin c hc

/-- A host store inside the buffer. -/
theorem Memory.Fits.storeLe {m : Memory} {size i n : Nat} (h : m.Fits size) (hn : i + n ≤ size) (w : Word) :
    (Machine.storeLe m i n w).Fits size := by
  unfold Machine.storeLe
  refine List.foldlRecOn (motive := (Memory.Fits · size)) _ _ h fun m' hm' j hj => hm'.put ?_ _
  have hj := List.mem_range.mp hj
  omega

/-- A host store inside the input buffer. -/
theorem State.buffersOk.storeIbuf {s : State} (h : s.buffersOk) {i n : Nat} (hn : i + n ≤ s.cfg.ibufSize) (w : Word) :
    State.buffersOk { s with ibuf := storeLe s.ibuf i n w } := by
  obtain ⟨hi, ho⟩ := s.buffersOk_iff.mp h
  exact (State.buffersOk_iff _).mpr ⟨hi.storeLe hn w, ho⟩

/-- A host store inside the output buffer. -/
theorem State.buffersOk.storeObuf {s : State} (h : s.buffersOk) {i n : Nat} (hn : i + n ≤ s.cfg.obufSize) (w : Word) :
    State.buffersOk { s with obuf := storeLe s.obuf i n w } := by
  obtain ⟨hi, ho⟩ := s.buffersOk_iff.mp h
  exact (State.buffersOk_iff _).mpr ⟨hi, ho.storeLe hn w⟩

/-- An emitted byte for which there is room. -/
theorem State.buffersOk.wrote {s : State} (h : s.buffersOk) (room : s.outPtr.toNat < s.cfg.obufSize) (v : Byte) :
    (s.wrote [v]).buffersOk := by
  obtain ⟨hi, ho⟩ := s.buffersOk_iff.mp h
  exact (State.buffersOk_iff _).mpr ⟨hi, ho.put room v⟩

/-! ### Reset -/

theorem Config.installed_legal : Config.installed.legal = true := by
  have hi := Config.ibufSizeLessOne.isLt
  have ho := Config.obufSizeLessOne.isLt
  exact decide_eq_true ⟨Nat.le_add_left _ _, hi, Nat.le_add_left _ _, ho⟩

/-- The reset values meet the structural invariant, for any legal parameters and any host (R67). -/
theorem State.afterReset_inv (cfg : Config) (host : HostPort) (epoch : Nat) (h : cfg.legal = true) :
    (State.afterReset cfg host epoch).Inv := by
  refine ⟨h, ?_, ?_, ?_, ?_⟩
  · simp [State.buffersOk, State.afterReset]
  · simp [State.flagsOk, State.busy, State.afterReset]
  · simp [State.recordOk, State.busy, State.afterReset]
  · simp [State.seqOk, State.afterReset]

/-- Without a valid tree or valid codes the table invariant says nothing. -/
theorem State.TablesInv_of_invalid {s : State} (ht : s.treeValid = false) (hc : s.codeValid = false) : s.TablesInv :=
  ⟨fun h => by simp [ht] at h, fun h => by simp [hc] at h⟩

/-! ### Commands -/

theorem State.busy_iff (s : State) : s.busy = true ↔ s.seq ≠ .idle := by
  unfold State.busy
  cases s.seq <;> simp

/-- An elementary write keeps the structural invariant. -/
theorem EngineMove.keeps_inv {s t : State} (h : EngineMove s t) (hs : s.Inv) : t.Inv := by
  obtain ⟨hcfg, hbuf, ⟨hde, hbusy, hvalid⟩, hrec, hseq⟩ := hs
  cases h with
  | inPtr | rewind | putFt | pack | walk => exact ⟨hcfg, hbuf, ⟨hde, hbusy, hvalid⟩, hrec, hseq⟩
  | emit v room => exact ⟨hcfg, hbuf.wrote room v, ⟨hde, hbusy, hvalid⟩, hrec, hseq⟩
  | clearFt | invalidateTree | invalidateCodes =>
    exact ⟨hcfg, hbuf, ⟨hde, hbusy, fun h => Bool.noConfusion h⟩, hrec, hseq⟩
  | storeTree => exact ⟨hcfg, hbuf, ⟨hde, hbusy, fun _ => rfl⟩, hrec, hseq⟩
  | storeCodes _ valid => exact ⟨hcfg, hbuf, ⟨hde, hbusy, fun _ => valid⟩, hrec, hseq⟩

/-- An elementary write leaves SEQ alone. -/
theorem EngineMove.seq_eq {s t : State} (h : EngineMove s t) : t.seq = s.seq := by
  cases h <;> rfl

theorem Reaches.keeps_inv {s t : State} (h : Reaches s t) (hs : s.Inv) : t.Inv :=
  h.keeps EngineMove.keeps_inv hs

theorem Reaches.seq_eq {s t : State} (h : Reaches s t) : t.seq = s.seq :=
  h.keeps (P := fun u => u.seq = s.seq) (fun hmove hu => hmove.seq_eq.trans hu) rfl

/-- The successful completion of a running command (R268). -/
theorem State.Inv.finish {s : State} (h : s.Inv) (hb : s.busy = true) : s.finish.Inv := by
  obtain ⟨hcfg, hbuf, ⟨-, hbusy, hvalid⟩, ⟨-, hinfo, -⟩, -⟩ := h
  obtain ⟨-, herr⟩ := hbusy hb
  refine ⟨hcfg, hbuf, ⟨?_, ?_, hvalid⟩, ⟨?_, hinfo, ?_⟩, ?_⟩
  · simp [herr]
  · simp [State.busy]
  · simp [herr]
  · simp [State.busy]
  · simp [State.seqOk]

/-- An error taken while DONE is 0 (R265); what SEQ and the error record held before does not matter. -/
theorem State.raise_inv {s : State} (hcfg : s.cfg.legal = true) (hbuf : s.buffersOk) (hdone : s.done = false)
    (hvalid : s.codeValid = true → s.treeValid = true) (c : Cause) (info : Word) : (s.raise c info).Inv := by
  refine ⟨hcfg, hbuf, ⟨?_, ?_, hvalid⟩, ⟨?_, ?_, ?_⟩, ?_⟩
  · simp [hdone]
  · simp [State.busy]
  · simp
  · simp
  · simp [State.busy]
  · simp [State.seqOk]

/-- The abort of a running command (R265). -/
theorem State.Inv.raise {s : State} (h : s.Inv) (hb : s.busy = true) (c : Cause) (info : Word) : (s.raise c info).Inv := by
  obtain ⟨hcfg, hbuf, ⟨-, hbusy, hvalid⟩, -, -⟩ := h
  exact State.raise_inv hcfg hbuf (hbusy hb).1 hvalid c info

/-- A command keeps the structural invariant, finished or aborted. -/
theorem exec_keeps_inv {i : Instr} {s t : State} (h : s.Inv) (hb : s.busy = true) (ht : exec i s = .next t) : t.Inv := by
  obtain ⟨u, hsu, hut⟩ := exec_completes ht
  have hu : u.Inv := hsu.keeps_inv h
  have hub : u.busy = true := by rwa [State.busy_iff, hsu.seq_eq, ← State.busy_iff]
  rcases hut with rfl | ⟨c, info, rfl⟩
  · exact hu.finish hub
  · exact hu.raise hub c info

/-- The acceptance of a word with RST released: a legal word stays latched, any other aborts at once (R264). -/
theorem State.Inv.accept {s : State} (h : s.Inv) (hrst : s.rst = false) (w : Word) : (s.accept w).Inv := by
  obtain ⟨hcfg, hbuf, ⟨-, -, hvalid⟩, -, -⟩ := h
  rcases s.accept_cases w with ⟨i, hd, he⟩ | ⟨_, _, he⟩ <;> rw [he]
  · refine ⟨hcfg, hbuf, ⟨?_, ?_, hvalid⟩, ⟨?_, ?_, ?_⟩, ?_, ?_⟩
    · simp
    · simp
    · simp
    · simp
    · simp
    · rintro w' p hw
      cases hw
      exact ⟨i, hd⟩
    · simp [hrst]
  · exact State.raise_inv (s := s.latch w) hcfg hbuf rfl hvalid _ _

/-! ### Host accesses -/

/-- A read changes nothing but HERR and the host's side. -/
theorem State.hostRead_frame (s : State) (addr : Word) (size : Size) :
    ∃ herr host, s.hostRead addr size = { s with herr := herr, host := host } := by
  unfold State.hostRead
  split
  · exact ⟨_, _, rfl⟩
  all_goals (split <;> exact ⟨_, _, rfl⟩)

/-- A turn of `wait` changes nothing but HERR and the host's side. -/
theorem State.waitTurn_frame (s : State) : ∃ herr host, s.waitTurn = { s with herr := herr, host := host } := by
  obtain ⟨herr, host, h⟩ := s.hostRead_frame 0x00000004 .word
  unfold State.waitTurn
  simp only [h]
  split <;> exact ⟨_, _, rfl⟩

/-- The structural invariant does not speak of HERR or the host's side. -/
theorem State.Inv.withHost {s : State} (h : s.Inv) (herr : Bool) (host : HostPort) :
    State.Inv { s with herr := herr, host := host } := h

theorem State.Inv.hostError {s : State} (h : s.Inv) : s.hostError.Inv := h

theorem State.Inv.unlessBusy {s s' : State} (h : s.Inv) (h' : s'.Inv) : (s.unlessBusy s').Inv := by
  rcases s.unlessBusy_cases s' with ⟨_, he⟩ | ⟨_, he⟩ <;> rw [he]
  · exact h.hostError
  · exact h'

theorem State.Inv.writeStatus {s : State} (h : s.Inv) (w : Word) : (s.writeStatus w).Inv := by
  obtain ⟨hcfg, hbuf, ⟨hde, hbusy, hvalid⟩, ⟨herr, hinfo, hnone⟩, hseq⟩ := h
  refine ⟨hcfg, hbuf, ⟨?_, fun hb => ?_, hvalid⟩, ⟨?_, hinfo, hnone⟩, hseq⟩
  · simp only [State.writeStatus_done, State.writeStatus_err, Bool.and_eq_true]
    exact fun ⟨hd, he⟩ => hde ⟨hd.1, he.1⟩
  · obtain ⟨hd, he⟩ := hbusy hb
    simp [hd, he]
  · simp only [State.writeStatus_err, Bool.and_eq_true]
    exact fun he => herr he.1

theorem State.Inv.writeFtWindow {s : State} (h : s.Inv) (e : FtEntry) : (s.writeFtWindow e).Inv :=
  (EngineMove.invalidateTree _).keeps_inv ((EngineMove.putFt s s.ftSel e).keeps_inv h)

/-- A register write with RST released keeps the structural invariant. -/
theorem State.Inv.writeReg {s : State} (h : s.Inv) (hrst : s.rst = false) (w : Word) (r : Reg) : (s.writeReg w r).Inv := by
  cases r with
  | cmd => exact h.unlessBusy (h.accept hrst w)
  | status => exact h.writeStatus w
  | ctrl => exact h
  | inLen | inPtr | outPtr | ftSel | nodeSel | codeSel | codeWsel => exact h.unlessBusy h
  | ftPresent | ftCntLo | ftCntHi => exact h.unlessBusy (h.writeFtWindow _)
  | err | errInfo | ftNsym | nodeInfo | nodeLinks | nodeWLo | nodeWHi | treeInfo | codeInfo | codeWord => exact h.hostError

theorem end_le_of_bufferAccessOk {offset total : Nat} {size : Size} (h : bufferAccessOk offset size total = true) :
    offset + size.bytes ≤ total := by
  simp only [bufferAccessOk, Bool.and_eq_true, decide_eq_true_eq] at h
  exact h.2

/-- What a well-formed access reaches in a buffer lies inside it. -/
def Target.Inside (cfg : Config) (size : Size) : Target → Prop
  | .reg _ => True
  | .ibuf i => i + size.bytes ≤ cfg.ibufSize
  | .obuf i => i + size.bytes ≤ cfg.obufSize

/-- An access that is not erroneous stays inside the buffer it reaches (R74). -/
theorem State.target_inside {s : State} {addr : Word} {size : Size} {x : Target} (h : s.target addr size = some x) :
    x.Inside s.cfg size := by
  unfold State.target at h
  extract_lets a at h
  split_ifs at h with _ _ _ hi _ ho
  · obtain ⟨r, _, rfl⟩ := Option.map_eq_some_iff.mp h
    trivial
  · cases h
    exact end_le_of_bufferAccessOk hi
  · cases h
    exact end_le_of_bufferAccessOk ho

/-- A host write with RST released keeps the structural invariant. -/
theorem State.Inv.hostWrite {s : State} (h : s.Inv) (hrst : s.rst = false) (addr : Word) (size : Size) (w : Word) :
    (s.hostWrite addr size w).Inv := by
  unfold State.hostWrite
  split
  next => exact h.hostError
  next r _ => exact h.writeReg hrst w r
  next i ht =>
    obtain ⟨hcfg, hbuf, hrest⟩ := id h
    exact h.unlessBusy ⟨hcfg, hbuf.storeIbuf (State.target_inside ht) w, hrest⟩
  next i ht =>
    obtain ⟨hcfg, hbuf, hrest⟩ := id h
    exact h.unlessBusy ⟨hcfg, hbuf.storeObuf (State.target_inside ht) w, hrest⟩

theorem State.Inv.hostRead {s : State} (h : s.Inv) (addr : Word) (size : Size) : (s.hostRead addr size).Inv := by
  obtain ⟨herr, host, he⟩ := s.hostRead_frame addr size
  exact he ▸ h.withHost herr host

theorem State.Inv.waitTurn {s : State} (h : s.Inv) : s.waitTurn.Inv := by
  obtain ⟨herr, host, he⟩ := s.waitTurn_frame
  exact he ▸ h.withHost herr host

/-- Asserting RST in any state, or releasing it, leaves SEQ as `seqOk` asks (R300). -/
theorem State.Inv.driveRst {s : State} (h : s.Inv) (level : Bool) : (s.driveRst level).Inv := by
  cases level with
  | true =>
    obtain ⟨hcfg, hbuf, hflags, hrec, hlegal, -⟩ := State.afterReset_inv s.cfg { s.host with turns := 0 } (s.epoch + 1) h.1
    exact ⟨hcfg, hbuf, hflags, hrec, hlegal, fun _ => rfl⟩
  | false =>
    obtain ⟨hcfg, hbuf, hflags, hrec, hlegal, -⟩ := h
    exact ⟨hcfg, hbuf, hflags, hrec, hlegal, fun hr => Bool.noConfusion hr⟩

/-- A host operation keeps the structural invariant. -/
theorem State.Inv.perform {s : State} (h : s.Inv) (op : HostOp) : (s.perform op).Inv := by
  cases op with
  | rst level => exact h.driveRst level
  | read addr size =>
    rw [State.perform]
    split
    · exact h
    · exact h.hostRead addr size
  | write addr size data =>
    rw [State.perform]
    split
    · exact h
    next hrst => exact h.hostWrite (Bool.eq_false_of_not_eq_true hrst) addr size data
  | wait =>
    rw [State.perform]
    split
    · exact h
    · exact h.waitTurn

theorem State.Inv.hostTurn {s : State} (h : s.Inv) : s.hostTurn.Inv := by
  unfold State.hostTurn
  split
  · exact h
  · exact State.Inv.perform (h.withHost s.herr _) _

/-- One step, whoever moves. -/
theorem step_keeps_inv {s t : State} (h : s.Inv) (ht : step s = .next t) : t.Inv := by
  rcases step_cases s with ⟨_, he⟩ | ⟨_, _, he⟩ | ⟨_, _, w, p, hrun, ⟨i, _, he⟩ | ⟨_, _, he⟩⟩
  · cases he.symm.trans ht
    exact h.hostTurn
  · cases he.symm.trans ht
    exact h
  all_goals have hb : s.busy = true := by simp [State.busy_iff, hrun]
  · exact exec_keeps_inv h hb (he.symm.trans ht)
  · cases he.symm.trans ht
    exact h.raise hb _ _

/-- Settles O7: reset meets the structural invariant for every legal pair of sizes, and no tree or code is valid yet. -/
theorem resetMeetsInvariants : Obligations.ResetMeetsInvariants :=
  ⟨State.afterReset_inv _ _ _ Config.installed_legal, State.TablesInv_of_invalid rfl rfl⟩

/-- Settles O8: by the cases of a step; a command is a sequence of elementary writes, each of which keeps the invariant, and
one completion step. -/
theorem stepKeepsStructuralInvariant : Obligations.StepKeepsStructuralInvariant :=
  fun _ _ h ht => step_keeps_inv h ht

end Sys2Proof.Machine
end

section
/-! SUPPORT. A stable sort by a key keeps any order that already holds between elements of equal keys (R11). -/

namespace Sys2Proof.Machine

/-- The order by `key`, and by `r` among elements of equal keys. -/
def KeyThen {α : Type} (key : α → Nat) (r : α → α → Prop) (x y : α) : Prop := key x < key y ∨ (key x = key y ∧ r x y)

/-- Inserting an element that is `r`-before every element of its key. -/
theorem insertByKey_keyThen {α : Type} {key : α → Nat} {r : α → α → Prop} {x : α} {q : List α}
    (hq : q.Pairwise (KeyThen key r)) (hx : ∀ y ∈ q, key x = key y → r x y) :
    (insertByKey key x q).Pairwise (KeyThen key r) := by
  induction q with
  | nil => exact List.pairwise_singleton _ x
  | cons y ys ih =>
    obtain ⟨hy, hys⟩ := List.pairwise_cons.mp hq
    rw [insertByKey]
    split
    next hxy =>
      refine List.pairwise_cons.mpr ⟨fun z hz => ?_, hq⟩
      have hxz : key x ≤ key z := by
        rcases List.mem_cons.mp hz with rfl | hz
        · exact hxy
        · rcases hy z hz with hlt | ⟨heq, _⟩ <;> omega
      exact hxz.lt_or_eq.imp_right fun heq => ⟨heq, hx z hz heq⟩
    next hxy =>
      refine List.pairwise_cons.mpr ⟨fun z hz => ?_, ih hys fun z hz => hx z (List.mem_cons_of_mem y hz)⟩
      rcases List.mem_cons.mp ((insertByKey_perm key x ys).mem_iff.mp hz) with rfl | hz
      · exact .inl (Nat.lt_of_not_le hxy)
      · exact hy z hz

/-- A sort is stable: where `r` orders equal keys before, it does so afterwards. -/
theorem stableSortBy_keyThen {α : Type} {key : α → Nat} {r : α → α → Prop} {q : List α}
    (hq : q.Pairwise (fun x y => key x = key y → r x y)) : (stableSortBy key q).Pairwise (KeyThen key r) := by
  induction q with
  | nil => exact List.Pairwise.nil
  | cons x q ih =>
    obtain ⟨hx, hq⟩ := List.pairwise_cons.mp hq
    exact insertByKey_keyThen (ih hq) fun y hy => hx y ((stableSortBy_perm key q).mem_iff.mp hy)

/-- Settles O24: the sequence with the new node at its back has equal weights in index order, which a stable sort keeps. -/
theorem resortOrdersByWeightThenIndex : Obligations.ResortOrdersByWeightThenIndex := by
  intro a q k hq hk
  refine ⟨stableSortBy_keyThen (r := (· < ·)) ?_, stableSortBy_perm _ _⟩
  refine List.pairwise_append.mpr ⟨hq.imp ?_, List.pairwise_singleton _ k, fun i hi j hj _ => ?_⟩
  · rintro i j (hlt | ⟨_, hij⟩) heq
    · omega
    · exact hij
  · rw [List.mem_singleton.mp hj]
    exact hk i hi

end Sys2Proof.Machine
end

section
/-! SUPPORT. The frequency table as the list of its present symbols, the numbering of the arena's nodes, and the frame of the
host's side. -/

namespace Sys2Proof.Machine

/-! ### The present symbols -/

/-- The present symbols of a list. -/
def State.presentIn (s : State) (syms : List Byte) : List Byte := syms.filter (fun sym => (s.ftAt sym).present)

theorem State.presentIn_cons_pos {s : State} {sym : Byte} (rest : List Byte) (h : (s.ftAt sym).present = true) :
    s.presentIn (sym :: rest) = sym :: s.presentIn rest := List.filter_cons_of_pos h

theorem State.presentIn_cons_neg {s : State} {sym : Byte} (rest : List Byte) (h : ¬(s.ftAt sym).present = true) :
    s.presentIn (sym :: rest) = s.presentIn rest := List.filter_cons_of_neg h

/-- The present symbols, in ascending order: those BUILD makes a leaf for (R181). -/
def State.presentSyms (s : State) : List Byte := s.presentIn allSymbols

theorem allSymbols_length : allSymbols.length = 256 := by simp [allSymbols]

theorem allSymbols_sorted : allSymbols.Pairwise (· < ·) := by
  refine List.pairwise_map.mpr (List.pairwise_lt_range.imp_of_mem fun {i j} _ hj hij => ?_)
  have hj := List.mem_range.mp hj
  simpa [BitVec.lt_def, Nat.mod_eq_of_lt hj, Nat.mod_eq_of_lt (Nat.lt_trans hij hj)] using hij

theorem State.ft_toList (s : State) : s.ft.toList = allSymbols.map s.ftAt := by
  refine List.ext_getElem (by simp [allSymbols_length]) fun i hi _ => ?_
  have hi : i < 256 := by simpa using hi
  simp [allSymbols, State.ftAt, Nat.mod_eq_of_lt hi]

theorem State.nsym_eq (s : State) : s.nsym = s.presentSyms.length := by
  rw [State.nsym, State.ft_toList, List.countP_map, List.countP_eq_length_filter]
  rfl

theorem State.ftTotal_eq (s : State) :
    s.ftTotal = (s.presentSyms.map (fun sym => (s.ftAt sym).count.toNat)).sum := by
  rw [State.ftTotal, State.ft_toList, List.filter_map, List.map_map]
  rfl

theorem State.mem_presentSyms (s : State) (sym : Byte) : sym ∈ s.presentSyms ↔ (s.ftAt sym).present = true := by
  simp [State.presentSyms, State.presentIn, mem_allSymbols]

theorem State.presentSyms_sorted (s : State) : s.presentSyms.Pairwise (· < ·) :=
  allSymbols_sorted.filter (fun sym => (s.ftAt sym).present)

theorem State.nsym_le (s : State) : s.nsym ≤ 256 := by
  rw [s.nsym_eq, ← allSymbols_length]
  exact List.length_filter_le _ _

/-! ### Node numbers -/

theorem nodeIx_val {k : Nat} (h : k < 511) : (nodeIx k).val = k := Nat.mod_eq_of_lt h

@[simp] theorem nodeIx_of_val (i : NodeIx) : nodeIx i.val = i := Fin.ext (nodeIx_val i.isLt)

theorem nodeIx_inj {i j : Nat} (hi : i < 511) (hj : j < 511) : nodeIx i = nodeIx j ↔ i = j := by
  rw [Fin.ext_iff, nodeIx_val hi, nodeIx_val hj]

/-! ### The host's side -/

theorem sameHostSide.refl (s : State) : sameHostSide s s :=
  ⟨rfl, rfl, rfl, rfl, rfl, rfl, rfl, rfl, rfl, rfl, fun _ => rfl, rfl, rfl, rfl, rfl⟩

/-! ### Another arena -/

/-- The state with another arena in its tree. -/
def State.withNodes (s : State) (a : Nodes) : State := { s with tree := { s.tree with nodes := a } }

@[simp] theorem State.withNodes_nodes (s : State) (a : Nodes) : (s.withNodes a).tree.nodes = a := rfl

@[simp] theorem State.withNodes_nsym (s : State) (a : Nodes) : (s.withNodes a).nsym = s.nsym := rfl

@[simp] theorem State.withNodes_ftAt (s : State) (a : Nodes) (sym : Byte) : (s.withNodes a).ftAt sym = s.ftAt sym := rfl

theorem State.node_withNodes (s : State) (a : Nodes) (i : Nat) : (s.withNodes a).node i = nodeAt a (nodeIx i) := rfl

end Sys2Proof.Machine
end

section
/-! SUPPORT. BUILD (R181): what its leaves are, and what one merge does to the arena. -/

namespace Sys2Proof.Machine

/-! ### Leaves -/

/-- Making leaves from index `k` on leaves the nodes below alone. -/
theorem nodeAt_addLeaves_below (s : State) {syms : List Byte} {k i : Nat} (a : Nodes)
    (hk : k + (s.presentIn syms).length ≤ 511) (hi : i < k) :
    nodeAt (addLeaves s syms k a) (nodeIx i) = nodeAt a (nodeIx i) := by
  induction syms generalizing k a with
  | nil => rfl
  | cons sym rest ih =>
    rw [addLeaves]
    split
    next hp =>
      rw [State.presentIn_cons_pos rest hp, List.length_cons] at hk
      have hne : nodeIx i ≠ nodeIx k := by
        rw [Ne, nodeIx_inj (by omega) (by omega)]
        omega
      rw [ih _ (by omega) (by omega), nodeAt_putNode, if_neg hne]
    next hp => exact ih a (State.presentIn_cons_neg rest hp ▸ hk) hi

/-- The leaves BUILD makes: one for each present symbol, in order. -/
theorem nodeAt_addLeaves (s : State) {syms : List Byte} {k i : Nat} {x : Byte} (a : Nodes)
    (hk : k + (s.presentIn syms).length ≤ 511) (hx : (s.presentIn syms)[i]? = some x) :
    nodeAt (addLeaves s syms k a) (nodeIx (k + i)) = leafNode x (s.ftAt x).count := by
  induction syms generalizing k i a with
  | nil => exact nomatch hx
  | cons sym rest ih =>
    rw [addLeaves]
    split
    next hp =>
      rw [State.presentIn_cons_pos rest hp] at hk hx
      rw [List.length_cons] at hk
      cases i with
      | zero =>
        cases hx
        exact (nodeAt_addLeaves_below s _ (by omega) (by omega)).trans (nodeAt_putNode_same _ _ _)
      | succ i =>
        rw [show k + (i + 1) = k + 1 + i by omega]
        exact ih _ (by omega) hx
    next hp =>
      rw [State.presentIn_cons_neg rest hp] at hk hx
      exact ih a hk hx

/-! ### One merge -/

/-- Everything a merge does to the arena: node `k` is new, `a` and `b` get it as their parent, no other node changes. -/
theorem nodeAt_mergeNodes (arena : Nodes) {a b k : NodeIx} (ha : a ≠ k) (hb : b ≠ k) (j : NodeIx) :
    nodeAt (mergeNodes arena a b k) j =
      if j = k then mergedNode arena a b
      else if j = a ∨ j = b then { nodeAt arena j with hasp := true, parent := k }
      else nodeAt arena j := by
  simp only [mergeNodes, setParent, nodeAt_putNode]
  by_cases hk : j = k
  · subst hk
    simp [ha.symm, hb.symm]
  · by_cases hjb : j = b
    · subst hjb
      by_cases hja : j = a
      · subst hja
        simp [hk]
      · simp [hk, hja]
    · by_cases hja : j = a
      · subst hja
        simp [hk, hjb]
      · simp [hk, hja, hjb]

/-- The weight of the merged node is the sum of its children's, where that fits 64 bits (R180). -/
theorem nodeWeight_mergeNodes_new (arena : Nodes) {a b k : NodeIx} (ha : a ≠ k) (hb : b ≠ k)
    (hw : nodeWeight arena a + nodeWeight arena b < 2 ^ 64) :
    nodeWeight (mergeNodes arena a b k) k = nodeWeight arena a + nodeWeight arena b := by
  rw [nodeWeight, nodeAt_mergeNodes arena ha hb, if_pos rfl]
  exact (BitVec.toNat_add _ _).trans (Nat.mod_eq_of_lt hw)

end Sys2Proof.Machine
end

section
/-! SUPPORT. The loop of BUILD (R181, R182): its invariant, and the tree it ends with. -/

namespace Sys2Proof.Machine

/-! ### The invariant of BUILD's loop -/

/-- What BUILD's loop keeps (R181, R182): nodes below `k` are made, `q` holds those without a parent in the order of the merge
sequence, every other one has its parent, and the merges so far were made in order. -/
structure Merging (s : State) (k : Nat) (q : List NodeIx) : Prop where
  size : q.length + k = 2 * s.nsym
  made : s.nsym ≤ k
  sorted : q.Pairwise s.precedes
  total : (q.map (nodeWeight s.tree.nodes)).sum = s.ftTotal
  leaves : s.leavesOk
  internal : ∀ i < k, s.nsym ≤ i → s.internalOk i
  roots : ∀ i ∈ q, i.val < k ∧ (nodeAt s.tree.nodes i).hasp = false
  merged : ∀ i < k, nodeIx i ∉ q → s.childOk i ∧ (s.node i).parent.val < k
  order : ∀ i < k, s.nsym ≤ i → s.precedes (s.node i).right (s.node i).left ∧
    ∀ j < i, nodeIx j ∈ q ∨ i < (s.node j).parent.val → s.precedes (s.node i).left (nodeIx j)

theorem State.precedes_irrefl (s : State) (i : NodeIx) : ¬s.precedes i i := by
  simp [State.precedes]

theorem Merging.nodup {s : State} {k : Nat} {q : List NodeIx} (h : Merging s k q) : q.Nodup := by
  refine h.sorted.imp ?_
  rintro i _ hij rfl
  exact s.precedes_irrefl i hij

/-- The arena after step 1 of BUILD. -/
def State.leafArena (s : State) : Nodes := addLeaves s allSymbols 0 s.tree.nodes

theorem nodeAt_leafArena (s : State) {i : Nat} (hi : i < s.presentSyms.length) :
    nodeAt s.leafArena (nodeIx i) = leafNode s.presentSyms[i] (s.ftAt s.presentSyms[i]).count := by
  have hle : (s.presentIn allSymbols).length ≤ 256 := s.nsym_eq ▸ s.nsym_le
  have h := nodeAt_addLeaves s (k := 0) (i := i) s.tree.nodes (by omega) (List.getElem?_eq_getElem hi)
  rwa [Nat.zero_add] at h

theorem leavesOk_leafArena (s : State) : (s.withNodes s.leafArena).leavesOk := by
  simp only [State.leavesOk, State.node_withNodes, State.withNodes_nsym, State.withNodes_ftAt, s.nsym_eq]
  refine ⟨fun i hi => ?_, fun j hj i hij => ?_, fun sym _ hp => ?_⟩
  · rw [nodeAt_leafArena s hi]
    exact ⟨rfl, (s.mem_presentSyms _).mp (List.getElem_mem hi), rfl⟩
  · rw [nodeAt_leafArena s hj, nodeAt_leafArena s (hij.trans hj)]
    exact List.pairwise_iff_getElem.mp s.presentSyms_sorted i j _ hj hij
  · obtain ⟨i, hi, hsym⟩ := List.getElem_of_mem ((s.mem_presentSyms sym).mpr hp)
    exact ⟨i, List.mem_range.mpr hi, by rw [nodeAt_leafArena s hi]; exact hsym⟩

/-- The leaves' weights sum to the total. -/
theorem leafArena_total (s : State) :
    (((List.range s.nsym).map nodeIx).map (nodeWeight s.leafArena)).sum = s.ftTotal := by
  rw [s.ftTotal_eq]
  congr 1
  refine List.ext_getElem (by simp [s.nsym_eq]) fun i hi hi' => ?_
  rw [List.length_map] at hi'
  simp [nodeWeight, nodeAt_leafArena s hi', leafNode]

/-- Before the first merge: the leaves, sorted. -/
theorem Merging.start (s : State) : Merging (s.withNodes s.leafArena) s.nsym
    (stableSortBy (nodeWeight s.leafArena) ((List.range s.nsym).map nodeIx)) := by
  have hle := s.nsym_le
  have hperm := stableSortBy_perm (nodeWeight s.leafArena) ((List.range s.nsym).map nodeIx)
  have hmem : ∀ i < s.nsym, nodeIx i ∈ stableSortBy (nodeWeight s.leafArena) ((List.range s.nsym).map nodeIx) :=
    fun i hi => hperm.mem_iff.mpr (List.mem_map_of_mem (List.mem_range.mpr hi))
  have hord : ((List.range s.nsym).map nodeIx).Pairwise (· < ·) := by
    refine List.pairwise_map.mpr (List.pairwise_lt_range.imp_of_mem fun {i j} hi hj hij => ?_)
    rw [List.mem_range] at hi hj
    rwa [Fin.lt_def, nodeIx_val (by omega), nodeIx_val (by omega)]
  refine ⟨?_, le_refl _, ?_, ?_, leavesOk_leafArena s, ?_, ?_, ?_, ?_⟩
  · simp [hperm.length_eq]
    omega
  · refine stableSortBy_keyThen (r := (· < ·)) (hord.imp ?_)
    exact fun hij _ => hij
  · exact (hperm.map _).sum_eq.trans (leafArena_total s)
  · exact fun i hi hi' => absurd hi (Nat.not_lt.mpr hi')
  · intro i hi
    obtain ⟨j, hj, rfl⟩ := List.mem_map.mp (hperm.mem_iff.mp hi)
    rw [List.mem_range] at hj
    have hj' : j < s.presentSyms.length := s.nsym_eq ▸ hj
    exact ⟨by rwa [nodeIx_val (by omega)], by rw [State.withNodes_nodes, nodeAt_leafArena s hj']; rfl⟩
  · exact fun i hi hq => absurd (hmem i hi) hq
  · exact fun i hi hi' => absurd hi (Nat.not_lt.mpr hi')

/-- The state after the merge of `a` and `b` into node `k`. -/
def State.merge (s : State) (a b : NodeIx) (k : Nat) : State := s.withNodes (mergeNodes s.tree.nodes a b (nodeIx k))

section Merge
variable {s : State} {k : Nat} {a b : NodeIx} {rest : List NodeIx} (h : Merging s k (a :: b :: rest))
include h

/-- There is room for node `k` below the root's place (R56). -/
theorem Merging.room : k + 2 ≤ 2 * s.nsym ∧ k < 511 := by
  have hsize := h.size
  have hle := s.nsym_le
  simp only [List.length_cons] at hsize
  omega

theorem Merging.lt_nodeIx {i : NodeIx} (hi : i ∈ a :: b :: rest) : i < nodeIx k := by
  rw [Fin.lt_def, nodeIx_val h.room.2]
  exact (h.roots i hi).1

theorem Merging.nodeAt_merge (j : NodeIx) :
    nodeAt (s.merge a b k).tree.nodes j =
      if j = nodeIx k then mergedNode s.tree.nodes a b
      else if j = a ∨ j = b then { nodeAt s.tree.nodes j with hasp := true, parent := nodeIx k }
      else nodeAt s.tree.nodes j :=
  nodeAt_mergeNodes _ (ne_of_lt (h.lt_nodeIx (by simp))) (ne_of_lt (h.lt_nodeIx (by simp))) j

/-- The merged node, at its number. -/
theorem Merging.node_merge_new : (s.merge a b k).node k = mergedNode s.tree.nodes a b :=
  (h.nodeAt_merge _).trans (if_pos rfl)

/-- The two merged nodes get the new one as their parent. -/
theorem Merging.nodeAt_merge_child {i : NodeIx} (hi : i = a ∨ i = b) :
    nodeAt (s.merge a b k).tree.nodes i = { nodeAt s.tree.nodes i with hasp := true, parent := nodeIx k } := by
  have hmem : i ∈ a :: b :: rest := by
    rcases hi with rfl | rfl <;> simp
  rw [h.nodeAt_merge, if_neg (ne_of_lt (h.lt_nodeIx hmem)), if_pos hi]

/-- A merge gives an older node a parent at most. -/
theorem Merging.node_merge_fields {i : Nat} (hi : i < k) :
    ((s.merge a b k).node i).leaf = (s.node i).leaf ∧ ((s.merge a b k).node i).sym = (s.node i).sym ∧
      ((s.merge a b k).node i).w = (s.node i).w ∧ ((s.merge a b k).node i).left = (s.node i).left ∧
      ((s.merge a b k).node i).right = (s.node i).right := by
  have hroom := h.room
  have hne : nodeIx i ≠ nodeIx k := by
    rw [Ne, nodeIx_inj (by omega) (by omega)]
    omega
  rw [State.node, h.nodeAt_merge, if_neg hne]
  split <;> exact ⟨rfl, rfl, rfl, rfl, rfl⟩

/-- A merge leaves a node alone that has its parent. -/
theorem Merging.node_merge_hasp {i : Nat} (hi : i < k) (hp : (s.node i).hasp = true) :
    (s.merge a b k).node i = s.node i := by
  have hroom := h.room
  have hroot : ∀ j ∈ a :: b :: rest, nodeIx i ≠ j := by
    rintro j hj rfl
    exact Bool.false_ne_true ((h.roots _ hj).2.symm.trans hp)
  rw [State.node, h.nodeAt_merge, if_neg, if_neg]
  · rfl
  · rintro (e | e)
    · exact hroot a (by simp) e
    · exact hroot b (by simp) e
  · rw [nodeIx_inj (by omega) (by omega)]
    omega

theorem Merging.weight_merge_old {i : NodeIx} (hi : i.val < k) :
    nodeWeight (s.merge a b k).tree.nodes i = nodeWeight s.tree.nodes i := by
  obtain ⟨-, -, hw, -, -⟩ := h.node_merge_fields hi
  rw [State.node, State.node, nodeIx_of_val] at hw
  exact congrArg BitVec.toNat hw

/-- The order of the merge sequence stays as it is among the older nodes. -/
theorem Merging.precedes_merge {i j : NodeIx} (hi : i.val < k) (hj : j.val < k) :
    (s.merge a b k).precedes i j ↔ s.precedes i j := by
  rw [State.precedes, State.precedes, h.weight_merge_old hi, h.weight_merge_old hj]

/-- No sum of weights passes the total of the table, which fits 64 bits. -/
theorem Merging.weight_merge_new (hfit : s.ftTotal ≤ 2 ^ 64 - 1) :
    nodeWeight (s.merge a b k).tree.nodes (nodeIx k) = nodeWeight s.tree.nodes a + nodeWeight s.tree.nodes b := by
  have htotal := h.total
  simp only [List.map_cons, List.sum_cons] at htotal
  refine nodeWeight_mergeNodes_new _ (ne_of_lt (h.lt_nodeIx (by simp))) (ne_of_lt (h.lt_nodeIx (by simp))) ?_
  omega

theorem Merging.leavesOk_merge : (s.merge a b k).leavesOk := by
  obtain ⟨hleaf, hasc, hall⟩ := h.leaves
  refine ⟨fun i hi => ?_, fun j hj i hij => ?_, fun sym hsym hp => ?_⟩
  · obtain ⟨el, es, ew, -, -⟩ := h.node_merge_fields (hi.trans_le h.made)
    rw [el, es, ew]
    exact hleaf i hi
  · obtain ⟨-, ei, -⟩ := h.node_merge_fields ((hij.trans hj).trans_le h.made)
    obtain ⟨-, ej, -⟩ := h.node_merge_fields (hj.trans_le h.made)
    rw [ei, ej]
    exact hasc j hj i hij
  · obtain ⟨i, hi, hs⟩ := hall sym hsym hp
    obtain ⟨-, es, -⟩ := h.node_merge_fields ((List.mem_range.mp hi).trans_le h.made)
    exact ⟨i, hi, es.trans hs⟩

/-- The internal nodes made before stay as R57 asks. -/
theorem Merging.internalOk_merge_old {i : Nat} (hi : i < k) (hn : s.nsym ≤ i) : (s.merge a b k).internalOk i := by
  obtain ⟨hleaf, hl, hr, hne, hlp, hlpar, hrp, hrpar, hw⟩ := h.internal i hi hn
  obtain ⟨el, -, ew, eleft, eright⟩ := h.node_merge_fields hi
  rw [State.internalOk, el, ew, eleft, eright, h.node_merge_hasp (hl.trans hi) hlp, h.node_merge_hasp (hr.trans hi) hrp]
  exact ⟨hleaf, hl, hr, hne, hlp, hlpar, hrp, hrpar, hw⟩

/-- The new node is as R57 asks. -/
theorem Merging.internalOk_merge_new (hfit : s.ftTotal ≤ 2 ^ 64 - 1) : (s.merge a b k).internalOk k := by
  have hval := nodeIx_val h.room.2
  have ha := h.nodeAt_merge_child (.inl rfl)
  have hb := h.nodeAt_merge_child (.inr rfl)
  have hw := h.weight_merge_new hfit
  obtain ⟨hanot, -⟩ := List.nodup_cons.mp h.nodup
  have hab : b ≠ a := fun e => hanot (by simp [e])
  rw [State.internalOk, h.node_merge_new]
  simp only [mergedNode, State.node, nodeIx_of_val, ha, hb, hval]
  refine ⟨trivial, (h.roots b (by simp)).1, (h.roots a (by simp)).1, hab, trivial, trivial, trivial, trivial, ?_⟩
  rw [nodeWeight, h.nodeAt_merge, if_pos rfl] at hw
  exact hw.trans (Nat.add_comm _ _)

/-- Every node but the roots has its parent. -/
theorem Merging.childOk_merge {i : Nat} (hi : i < k) (hq : nodeIx i ∉ rest) :
    (s.merge a b k).childOk i ∧ ((s.merge a b k).node i).parent.val < k + 1 := by
  have hroom := h.room
  have hmade := h.made
  have hval := nodeIx_val hroom.2
  by_cases hab : nodeIx i = a ∨ nodeIx i = b
  · have hnode : (s.merge a b k).node i = { s.node i with hasp := true, parent := nodeIx k } := h.nodeAt_merge_child hab
    rw [State.childOk, hnode]
    simp only [hval, h.node_merge_new]
    refine ⟨⟨trivial, hmade, hi, by change k < 2 * s.nsym - 1; omega, ?_⟩, by omega⟩
    rcases hab with rfl | rfl
    · exact .inr (nodeIx_val (by omega))
    · exact .inl (nodeIx_val (by omega))
  · obtain ⟨⟨hp, hn, hlt, hmax, hchild⟩, hpk⟩ := h.merged i hi
      (by simpa [and_assoc] using And.intro (not_or.mp hab) hq)
    obtain ⟨-, -, -, eleft, eright⟩ := h.node_merge_fields hpk
    rw [State.childOk, h.node_merge_hasp hi hp, eleft, eright]
    exact ⟨⟨hp, hn, hlt, hmax, hchild⟩, by omega⟩

/-- The merges made so far stay in order, and the new one comes after them (R182). -/
theorem Merging.order_merge {i : Nat} (hi : i < k + 1) (hn : s.nsym ≤ i) :
    (s.merge a b k).precedes ((s.merge a b k).node i).right ((s.merge a b k).node i).left ∧
      ∀ j < i, nodeIx j ∈ rest ∨ i < ((s.merge a b k).node j).parent.val →
        (s.merge a b k).precedes ((s.merge a b k).node i).left (nodeIx j) := by
  have hroom := h.room
  have ha := (h.roots a (by simp)).1
  have hb := (h.roots b (by simp)).1
  obtain ⟨hsa, hsb⟩ := List.pairwise_cons.mp h.sorted
  obtain ⟨hsb, -⟩ := List.pairwise_cons.mp hsb
  rcases Nat.lt_succ_iff_lt_or_eq.mp hi with hi | rfl
  · obtain ⟨hchild, hord⟩ := h.order i hi hn
    obtain ⟨-, hl, hr, -⟩ := h.internal i hi hn
    obtain ⟨-, -, -, eleft, eright⟩ := h.node_merge_fields hi
    rw [eleft, eright]
    refine ⟨(h.precedes_merge (by omega) (by omega)).mpr hchild, fun j hj hq => ?_⟩
    refine (h.precedes_merge (by omega) (by rw [nodeIx_val (by omega)]; omega)).mpr (hord j hj ?_)
    by_cases hmem : nodeIx j ∈ a :: b :: rest
    · exact .inl hmem
    · obtain ⟨⟨hp, -⟩, -⟩ := h.merged j (by omega) hmem
      rw [h.node_merge_hasp (by omega) hp] at hq
      exact hq.imp_left fun hq => by simp [hq]
  · rw [h.node_merge_new]
    refine ⟨(h.precedes_merge ha hb).mpr (hsa b (by simp)), fun j hj hq => ?_⟩
    refine (h.precedes_merge hb (by rw [nodeIx_val (by omega)]; omega)).mpr (hsb _ ?_)
    by_contra hrest
    obtain ⟨-, hpar⟩ := h.childOk_merge hj hrest
    exact hq.elim hrest (by omega)

/-- One turn of BUILD's loop. -/
theorem Merging.step (hfit : s.ftTotal ≤ 2 ^ 64 - 1) :
    Merging (s.merge a b k) (k + 1)
      (stableSortBy (nodeWeight (s.merge a b k).tree.nodes) (rest ++ [nodeIx k])) := by
  have hroom := h.room
  have hval := nodeIx_val hroom.2
  obtain ⟨hanot, hnodup⟩ := List.nodup_cons.mp h.nodup
  obtain ⟨hbnot, -⟩ := List.nodup_cons.mp hnodup
  have hlt : ∀ i ∈ rest, i < nodeIx k := fun i hi => h.lt_nodeIx (by simp [hi])
  have hold : ∀ i ∈ rest, i.val < k := fun i hi => (h.roots i (by simp [hi])).1
  have hrest : rest.Pairwise (s.merge a b k).precedes :=
    (List.pairwise_cons.mp (List.pairwise_cons.mp h.sorted).2).2.imp_of_mem fun hi hj =>
      (h.precedes_merge (hold _ hi) (hold _ hj)).mpr
  obtain ⟨hsorted, hperm⟩ := resortOrdersByWeightThenIndex _ rest (nodeIx k) hrest hlt
  have hmem : ∀ i, i ∈ stableSortBy (nodeWeight (s.merge a b k).tree.nodes) (rest ++ [nodeIx k]) ↔
      i ∈ rest ∨ i = nodeIx k := fun i => by simp [hperm.mem_iff]
  have hmem_old : ∀ i < k, nodeIx i ∈ stableSortBy (nodeWeight (s.merge a b k).tree.nodes) (rest ++ [nodeIx k]) ↔
      nodeIx i ∈ rest := fun i hi => by
    rw [hmem, nodeIx_inj (by omega) hroom.2]
    exact or_iff_left (by omega)
  refine ⟨?_, Nat.le_succ_of_le h.made, hsorted, ?_, h.leavesOk_merge, ?_, ?_, ?_, ?_⟩
  · have hsize := h.size
    simp only [List.length_cons] at hsize
    rw [hperm.length_eq, List.length_append, List.length_singleton]
    change rest.length + 1 + (k + 1) = 2 * s.nsym
    omega
  · have htotal := h.total
    simp only [List.map_cons, List.sum_cons] at htotal
    have hsum : rest.map (nodeWeight (s.merge a b k).tree.nodes) = rest.map (nodeWeight s.tree.nodes) :=
      List.map_congr_left fun i hi => h.weight_merge_old (hold i hi)
    rw [(hperm.map _).sum_eq, List.map_append, List.sum_append, hsum, List.map_singleton, List.sum_singleton,
      h.weight_merge_new hfit]
    change _ = s.ftTotal
    omega
  · intro i hi hn
    rcases Nat.lt_succ_iff_lt_or_eq.mp hi with hi | rfl
    · exact h.internalOk_merge_old hi hn
    · exact h.internalOk_merge_new hfit
  · intro i hi
    rcases (hmem i).mp hi with hi' | rfl
    · have hik := hold i hi'
      rw [h.nodeAt_merge, if_neg (ne_of_lt (hlt i hi')), if_neg]
      · exact ⟨by omega, (h.roots i (by simp [hi'])).2⟩
      · rintro (rfl | rfl)
        · exact hanot (List.mem_cons_of_mem b hi')
        · exact hbnot hi'
    · rw [hval, h.nodeAt_merge, if_pos rfl]
      exact ⟨Nat.lt_succ_self k, rfl⟩
  · intro i hi hq
    have hik : i < k := by
      by_contra hge
      exact hq ((hmem _).mpr (.inr (congrArg nodeIx (by omega))))
    exact h.childOk_merge hik fun hr => hq ((hmem_old i hik).mpr hr)
  · intro i hi hn
    obtain ⟨hchild, hord⟩ := h.order_merge hi hn
    exact ⟨hchild, fun j hj hq => hord j hj (hq.imp_left (hmem_old j (by omega)).mp)⟩

end Merge

/-- BUILD's loop ends with one node in the sequence. -/
theorem Merging.loop {s : State} (hfit : s.ftTotal ≤ 2 ^ 64 - 1) (m : Nat) {k : Nat} {q : List NodeIx} {arena : Nodes}
    (h : Merging (s.withNodes arena) k q) (hm : q.length ≤ m + 1) (hq : q ≠ []) :
    ∃ k' root arena', mergeLoop m k q arena = (k', [root], arena') ∧ Merging (s.withNodes arena') k' [root] := by
  induction m generalizing k q arena with
  | zero =>
    match q with
    | [root] => exact ⟨k, root, arena, rfl, h⟩
    | a :: b :: rest => simp at hm
  | succ m ih =>
    match q with
    | [root] => exact ⟨k, root, arena, rfl, h⟩
    | a :: b :: rest =>
      have hperm := stableSortBy_perm (nodeWeight (mergeNodes arena a b (nodeIx k))) (rest ++ [nodeIx k])
      refine ih (h.step hfit) ?_ ?_
      · have hlen := hperm.length_eq
        simp only [List.length_append, List.length_cons, List.length_nil] at hlen hm
        exact hlen.trans_le (by omega)
      · exact fun he => by simpa [he] using hperm.length_eq

/-- When one node is left, the arena is a tree as R57 asks, and merged in order. -/
theorem Merging.treeOk {s : State} {k : Nat} {root : NodeIx} (h : Merging s k [root]) (hroot : s.tree.root = root)
    (hcount : s.tree.count.val = k) : s.treeOk ∧ s.mergeOrderOk := by
  have hle := s.nsym_le
  have hsize := h.size
  have hmade := h.made
  rw [List.length_singleton] at hsize
  obtain ⟨hlt, hhasp⟩ := h.roots root (by simp)
  have hlast : root.val = 2 * s.nsym - 2 := by
    by_contra hne
    have hnot : nodeIx (2 * s.nsym - 2) ∉ [root] := fun hmem => by
      rw [List.mem_singleton, ← nodeIx_of_val root, nodeIx_inj (by omega) (by omega)] at hmem
      omega
    obtain ⟨⟨-, -, hup, -⟩, hpar⟩ := h.merged _ (by omega) hnot
    omega
  have hnode : s.node (2 * s.nsym - 2) = nodeAt s.tree.nodes root := by rw [← hlast, State.node, nodeIx_of_val]
  refine ⟨⟨by omega, by omega, by rw [hroot, hlast], by rw [hnode, hhasp], ?_, h.leaves, ?_, ?_⟩, ?_⟩
  · rw [hnode]
    simpa [nodeWeight] using h.total
  · exact fun i hi hn => h.internal i (by omega) hn
  · intro i hi
    refine (h.merged i (by omega) fun hmem => ?_).1
    rw [List.mem_singleton, ← nodeIx_of_val root, nodeIx_inj (by omega) (by omega)] at hmem
    omega
  · intro i hi hn
    obtain ⟨hchild, hord⟩ := h.order i (by omega) hn
    exact ⟨hchild, fun j hj hp => hord j hj (.inr hp)⟩

/-! ### BUILD -/

/-- Steps 1 to 4 of BUILD, for a non-empty table whose total fits 64 bits. -/
theorem buildTree_spec (s : State) (hn : 1 ≤ s.nsym) (hfit : s.ftTotal ≤ 2 ^ 64 - 1) {q : List NodeIx} {tree : Tree}
    (h : buildTree s s.nsym = (q, tree)) :
    State.treeOk { s with tree := tree } ∧ State.mergeOrderOk { s with tree := tree } := by
  have hle := s.nsym_le
  have hstart := Merging.start s
  have hlen : (stableSortBy (nodeWeight s.leafArena) ((List.range s.nsym).map nodeIx)).length = s.nsym := by
    simp [(stableSortBy_perm _ _).length_eq]
  obtain ⟨k, root, arena, hloop, hend⟩ := hstart.loop hfit s.nsym (by omega) fun he => by
    rw [he] at hlen
    exact absurd hlen (by simpa using Nat.ne_of_lt hn)
  have hk : k < 512 := by
    have hsize := hend.size
    rw [List.length_singleton, State.withNodes_nsym] at hsize
    omega
  have hbuild : buildTree s s.nsym = ([root], { nodes := arena, root := root, count := Fin.ofNat 512 k }) := by
    unfold State.leafArena at hloop
    simp only [buildTree, hloop]
    rfl
  obtain ⟨rfl, rfl⟩ := Prod.mk.inj (hbuild.symm.trans h)
  exact Merging.treeOk (s := { s with tree := _ }) ⟨hend.size, hend.made, hend.sorted, hend.total, hend.leaves,
    hend.internal, hend.roots, hend.merged, hend.order⟩ rfl (Nat.mod_eq_of_lt hk)

/-- Everything BUILD does (R181): one of its two errors, or a tree as R57 asks. -/
theorem buildBody_cases (s : State) :
    (s.nsym = 0 ∧ buildBody s = .error ⟨.idEmptyTable, 0, s.invalidateTree⟩) ∨
    (1 ≤ s.nsym ∧ 2 ^ 64 - 1 < s.ftTotal ∧ buildBody s = .error ⟨.idWeightOvf, 0, s.invalidateTree⟩) ∨
    (1 ≤ s.nsym ∧ s.ftTotal ≤ 2 ^ 64 - 1 ∧ ∃ tree q,
      buildBody s = .ok { s.invalidateTree with tree := tree, mergeQ := q, treeValid := true } ∧
      State.treeOk { s with tree := tree } ∧ State.mergeOrderOk { s with tree := tree }) := by
  have hnsym : s.invalidateTree.nsym = s.nsym := rfl
  have htotal : s.invalidateTree.ftTotal = s.ftTotal := rfl
  rw [buildBody]
  dsimp only
  rw [hnsym, htotal]
  by_cases h0 : s.nsym = 0
  · exact .inl ⟨h0, if_pos h0⟩
  have hn : 1 ≤ s.nsym := Nat.one_le_iff_ne_zero.mpr h0
  rw [if_neg h0]
  by_cases hover : 2 ^ 64 - 1 < s.ftTotal
  · exact .inr (.inl ⟨hn, hover, if_pos hover⟩)
  have hfit := Nat.le_of_not_lt hover
  rw [if_neg hover]
  exact .inr (.inr ⟨hn, hfit, _, _, rfl, buildTree_spec s.invalidateTree hn hfit rfl⟩)

/-- Settles O22: by the loop's invariant `Merging`, which the leaves meet and every merge keeps. -/
theorem buildMakesValidTree : Obligations.BuildMakesValidTree := by
  intro s hn hfit
  obtain ⟨h0, -⟩ | ⟨-, hover, -⟩ | ⟨-, -, tree, q, hbuild, htree, horder⟩ := buildBody_cases s
  · omega
  · omega
  · refine ⟨_, congrArg (fun r => Host.Outcome.next (settle r)) hbuild, ?_⟩
    exact ⟨⟨rfl, rfl, rfl, rfl, rfl⟩, rfl, rfl, htree, horder, rfl, rfl, ⟨rfl, fun _ => rfl⟩, sameHostSide.refl s⟩

end Sys2Proof.Machine
end

section
/-! SUPPORT. CODEGEN (R190): the walk to the root ends in every valid tree, what an entry of the code table holds, and the
invariant of the loop over the arena. -/

namespace Sys2Proof.Machine

/-! ### The walk to the root -/

theorem parentWalk_of_root {a : Nodes} {j : NodeIx} (h : (nodeAt a j).hasp = false) (fuel : Nat) (bits : List Bool) :
    parentWalk a fuel j bits = some bits := by
  unfold parentWalk
  simp [h]

theorem parentWalk_of_child {a : Nodes} {j : NodeIx} (h : (nodeAt a j).hasp = true) (fuel : Nat) (bits : List Bool) :
    parentWalk a (fuel + 1) j bits = parentWalk a fuel (nodeAt a j).parent
      (bits ++ [if (nodeAt a (nodeAt a j).parent).left = j then false else true]) := by
  rw [parentWalk]
  simp only [h, if_true]

/-- How many steps the walk from node `i` to the root can take: each goes to an internal node, and upwards (R57, R192). -/
def State.stepsToRoot (s : State) (i : Nat) : Nat := min (s.nsym - 1) (2 * s.nsym - 2 - i)

/-- In a valid tree the walk from every node ends at the root, in at least one step from any other node. -/
theorem parentWalk_of_treeOk {s : State} (h : s.treeOk) (fuel : Nat) {i : Nat} (bits : List Bool) (hi : i < 2 * s.nsym - 1)
    (hfuel : s.stepsToRoot i ≤ fuel) :
    ∃ path, parentWalk s.tree.nodes fuel (nodeIx i) bits = some (bits ++ path) ∧ path.length ≤ s.stepsToRoot i ∧
      (i < 2 * s.nsym - 2 → 1 ≤ path.length) := by
  obtain ⟨hn, -, -, hroot, -, -, -, hchild⟩ := h
  unfold State.stepsToRoot at hfuel ⊢
  induction fuel generalizing i bits with
  | zero =>
    obtain rfl : i = 2 * s.nsym - 2 := by omega
    exact ⟨[], by rw [parentWalk_of_root hroot, List.append_nil], by simp, by omega⟩
  | succ fuel ih =>
    by_cases hlast : i = 2 * s.nsym - 2
    · subst hlast
      exact ⟨[], by rw [parentWalk_of_root hroot, List.append_nil], by simp, by omega⟩
    · obtain ⟨hp, hinner, hup, hmax, -⟩ := hchild i (by omega)
      obtain ⟨path, hwalk, hlen, -⟩ := ih (i := (s.node i).parent.val)
        (bits ++ [if (nodeAt s.tree.nodes (s.node i).parent).left = nodeIx i then false else true]) hmax (by omega)
      rw [nodeIx_of_val, List.append_assoc] at hwalk
      exact ⟨_ :: path, (parentWalk_of_child hp fuel bits).trans hwalk, by rw [List.length_cons]; omega, by simp⟩

/-- Every leaf of a valid tree has a code, of at most `n - 1` bits, and of at least one unless it is the root (R192). -/
theorem leafCode_of_treeOk {s : State} (h : s.treeOk) {i : Nat} (hi : i < s.nsym) :
    ∃ code, leafCode s.tree.nodes (nodeIx i) = some code ∧ code.length ≤ s.nsym - 1 ∧
      (2 ≤ s.nsym → 1 ≤ code.length) := by
  have hle := s.nsym_le
  have hsteps : s.stepsToRoot i ≤ s.nsym - 1 := Nat.min_le_left _ _
  obtain ⟨path, hwalk, hlen, hone⟩ := parentWalk_of_treeOk h 255 [] (i := i) (by omega) (by omega)
  refine ⟨path.reverse, by rw [leafCode, hwalk]; rfl, ?_, fun hn => ?_⟩
  · rw [List.length_reverse]
    omega
  · rw [List.length_reverse]
    exact hone (by omega)

/-! ### Code-table entries -/

/-- The entry CODEGEN writes for a path (R190). -/
def CodeEntry.ofPath (code : List Bool) : CodeEntry where
  has := true
  len := BitVec.ofNat 8 code.length
  bits := writeCodeBits code 0

/-- The last bit of a code goes to bit 0 of CODE_BITS, and bits above its length stay (R59, R190). -/
theorem writeCodeBits_getLsbD (code : List Bool) (v : BitVec 256) (i : Nat) (h : code.length ≤ 256) :
    (writeCodeBits code v).getLsbD i = code.reverse[i]?.getD (v.getLsbD i) := by
  induction code generalizing v with
  | nil => rfl
  | cons b rest ih =>
    rw [List.length_cons] at h
    rw [writeCodeBits, ih _ (by omega), writeBit_getLsbD _ _ _ _ (by omega), List.reverse_cons, List.getElem?_append,
      List.length_reverse]
    rcases Nat.lt_trichotomy i rest.length with hi | rfl | hi
    · rw [if_pos hi, List.getElem?_eq_getElem (by rwa [List.length_reverse])]
      rfl
    · simp
    · rw [if_neg (Nat.lt_asymm hi), List.getElem?_eq_none (by rw [List.length_reverse]; omega), if_neg (Nat.ne_of_gt hi),
        List.getElem?_eq_none (by rw [List.length_singleton]; omega)]

theorem CodeEntry.ofPath_len {code : List Bool} (h : code.length ≤ 255) :
    (CodeEntry.ofPath code).len.toNat = code.length :=
  Nat.mod_eq_of_lt (by omega)

theorem CodeEntry.ofPath_bits {code : List Bool} (h : code.length ≤ 255) (i : Nat) :
    (CodeEntry.ofPath code).bits.getLsbD i = code.reverse[i]?.getD false := by
  rw [CodeEntry.ofPath, writeCodeBits_getLsbD code 0 i (by omega)]
  simp

/-- The code read from the entry of a path is the path. -/
theorem CodeEntry.code_ofPath {code : List Bool} (h : code.length ≤ 255) : (CodeEntry.ofPath code).code = code := by
  refine List.ext_getElem (by simp [CodeEntry.code, ofPath_len h]) fun m hm hm' => ?_
  have hrev : code.length - 1 - (code.length - 1 - m) = m := by omega
  simp only [CodeEntry.code, List.getElem_map, List.getElem_range, ofPath_len h, ofPath_bits h]
  rw [List.getElem?_eq_getElem (by rw [List.length_reverse]; omega), List.getElem_reverse]
  simp [hrev]

theorem CodeEntry.ofPath_bits_lt {code : List Bool} (h : code.length ≤ 255) :
    (CodeEntry.ofPath code).bits.toNat < 2 ^ (CodeEntry.ofPath code).len.toNat := by
  rw [CodeEntry.ofPath_len h]
  refine Nat.lt_pow_two_of_testBit _ fun i hi => (ofPath_bits h i).trans ?_
  rw [List.getElem?_eq_none (by rwa [List.length_reverse])]
  rfl

/-! ### The loop over the arena -/

/-- The code table after the nodes below `i`: their leaves have their codes, and no other symbol has one. -/
structure CodedBelow (s : State) (i : Nat) (c : Vector CodeEntry 256) : Prop where
  coded : ∀ j < s.nsym, j < i →
    ∃ code, leafCode s.tree.nodes (nodeIx j) = some code ∧ codeAt c (s.node j).sym = CodeEntry.ofPath code
  other : ∀ sym, (∀ j < s.nsym, j < i → (s.node j).sym ≠ sym) → codeAt c sym = CodeEntry.empty

/-- The leaves of a valid tree have different symbols. -/
theorem State.leavesOk.sym_ne {s : State} (h : s.leavesOk) {i j : Nat} (hj : j < s.nsym) (hij : i < j) :
    (s.node i).sym ≠ (s.node j).sym := by
  obtain ⟨-, hasc, -⟩ := h
  exact BitVec.ne_of_lt (hasc j hj i hij)

/-- A leaf gets its code. -/
theorem CodedBelow.putCode {s : State} (hs : s.leavesOk) {i : Nat} {c : Vector CodeEntry 256} (h : CodedBelow s i c)
    (hi : i < s.nsym) {code : List Bool} (hcode : leafCode s.tree.nodes (nodeIx i) = some code) :
    CodedBelow s (i + 1) (putCode c (s.node i).sym (CodeEntry.ofPath code)) := by
  refine ⟨fun j hj hji => ?_, fun sym hsym => ?_⟩
  · rcases Nat.lt_succ_iff_lt_or_eq.mp hji with hji | rfl
    · rw [codeAt_putCode_other _ _ _ _ (hs.sym_ne hi hji).symm]
      exact h.coded j hj hji
    · exact ⟨code, hcode, codeAt_putCode_same _ _ _⟩
  · rw [codeAt_putCode_other _ _ _ _ (hsym i hi (Nat.lt_succ_self i))]
    exact h.other sym fun j hj hji => hsym j hj (hji.trans (Nat.lt_succ_self i))

/-- An internal node changes nothing. -/
theorem CodedBelow.skip {s : State} {i : Nat} {c : Vector CodeEntry 256} (h : CodedBelow s i c) (hi : s.nsym ≤ i) :
    CodedBelow s (i + 1) c :=
  ⟨fun j hj _ => h.coded j hj (by omega), fun sym hsym => h.other sym fun j hj _ => hsym j hj (by omega)⟩

theorem codegenLoop_of_treeOk {s : State} (h : s.treeOk) (k : Nat) {i : Nat} {c : Vector CodeEntry 256}
    (hk : i + k = 2 * s.nsym - 1) (hc : CodedBelow s i c) :
    ∃ c', codegenLoop s.tree.nodes k i c = some c' ∧ CodedBelow s (2 * s.nsym - 1) c' := by
  obtain ⟨-, -, -, -, -, hleaves, hinternal, -⟩ := id h
  induction k generalizing i c with
  | zero => exact ⟨c, rfl, hk ▸ hc⟩
  | succ k ih =>
    unfold codegenLoop
    change ∃ c', (if (s.node i).leaf then _ else _) = some c' ∧ _
    by_cases hi : i < s.nsym
    · obtain ⟨code, hcode, -⟩ := leafCode_of_treeOk h hi
      have hempty : codeAt c (s.node i).sym = CodeEntry.empty :=
        hc.other _ fun j hj hji => hleaves.sym_ne hi hji
      obtain ⟨hleaf, -⟩ := hleaves.1 i hi
      simp only [hleaf, if_true, hcode]
      have hentry : codeAt c (nodeAt s.tree.nodes (nodeIx i)).sym = CodeEntry.empty := hempty
      rw [hentry]
      exact ih (by omega) (hc.putCode hleaves hi hcode)
    · obtain ⟨hleaf, -⟩ := hinternal i (by omega) (by omega)
      simp only [hleaf]
      exact ih (by omega) (hc.skip (by omega))

/-- The finished table is as R59 and R190 ask. -/
theorem CodedBelow.codesOk {s : State} (h : s.treeOk) {c : Vector CodeEntry 256} (hc : CodedBelow s (2 * s.nsym - 1) c) :
    State.codesOk { s with codes := c } := by
  have hle := s.nsym_le
  obtain ⟨-, -, -, -, -, ⟨hleaf, -, hall⟩, -, -⟩ := id h
  have hshort : ∀ j < s.nsym, ∃ code, code.length ≤ 255 ∧ leafCode s.tree.nodes (nodeIx j) = some code ∧
      codeAt c (s.node j).sym = CodeEntry.ofPath code := by
    intro j hj
    obtain ⟨code, hcode, hentry⟩ := hc.coded j hj (by omega)
    obtain ⟨_, hcode', hlen, -⟩ := leafCode_of_treeOk h hj
    obtain rfl := Option.some.inj (hcode.symm.trans hcode')
    exact ⟨code, by omega, hcode, hentry⟩
  refine ⟨fun sym hsym => ?_, fun j hj => ?_⟩
  · change (codeAt c sym).has = (s.ftAt sym).present ∧ ((codeAt c sym).has = false → codeAt c sym = CodeEntry.empty)
    cases hp : (s.ftAt sym).present with
    | true =>
      obtain ⟨j, hj, rfl⟩ := hall sym hsym hp
      obtain ⟨code, -, -, hentry⟩ := hshort j (List.mem_range.mp hj)
      rw [hentry]
      exact ⟨rfl, fun hf => Bool.noConfusion hf⟩
    | false =>
      have hempty : codeAt c sym = CodeEntry.empty := hc.other sym fun j hj _ he => by
        obtain ⟨-, hpres, -⟩ := hleaf j hj
        rw [he, hp] at hpres
        exact Bool.false_ne_true hpres
      exact ⟨by rw [hempty]; rfl, fun _ => hempty⟩
  · change leafCode s.tree.nodes (nodeIx j) = some (codeAt c (s.node j).sym).code ∧
      (codeAt c (s.node j).sym).bits.toNat < 2 ^ (codeAt c (s.node j).sym).len.toNat
    obtain ⟨code, hlen, hcode, hentry⟩ := hshort j hj
    rw [hentry, CodeEntry.code_ofPath hlen]
    exact ⟨hcode, CodeEntry.ofPath_bits_lt hlen⟩

/-! ### CODEGEN -/

/-- CODEGEN without a valid tree (R190). -/
theorem codegenBody_of_invalid {s : State} (h : s.treeValid = false) :
    codegenBody s = .error (.raised ⟨.cmdNoTree, 0x00000004, s.invalidateCodes⟩) :=
  if_pos h

/-- The code table CODEGEN makes of the arena as it stands, if every walk ends (R190). -/
def State.arenaCodes (s : State) : Option (Vector CodeEntry 256) :=
  codegenLoop s.tree.nodes s.tree.count.val 0 (Vector.replicate 256 CodeEntry.empty)

theorem codegenBody_of_none {s : State} (hv : s.treeValid = true) (h : s.arenaCodes = none) :
    codegenBody s = .error (.stuck .walkDoesNotEnd) := by
  unfold State.arenaCodes at h
  simp [codegenBody, hv, h]

theorem codegenBody_of_some {s : State} (hv : s.treeValid = true) {c : Vector CodeEntry 256} (h : s.arenaCodes = some c) :
    codegenBody s = .ok { s.invalidateCodes with codes := c, codeValid := true } := by
  unfold State.arenaCodes at h
  simp [codegenBody, hv, h]

/-- In a valid tree every walk ends, and the code table is as R59 and R190 ask. -/
theorem arenaCodes_of_treeOk {s : State} (h : s.treeOk) :
    ∃ c, s.arenaCodes = some c ∧ State.codesOk { s with codes := c } := by
  have hstart : CodedBelow s 0 (Vector.replicate 256 CodeEntry.empty) :=
    ⟨fun _ _ hj => absurd hj (Nat.not_lt_zero _), fun sym _ => codeAt_replicate sym _⟩
  obtain ⟨c, hloop, hc⟩ := codegenLoop_of_treeOk h (2 * s.nsym - 1) (Nat.zero_add _) hstart
  obtain ⟨-, hcount, -⟩ := id h
  exact ⟨c, by rwa [State.arenaCodes, hcount], hc.codesOk h⟩

/-- Settles O26: the walk from each leaf ends, since every parent has a higher index. -/
theorem codegenMakesTreePaths : Obligations.CodegenMakesTreePaths := by
  intro s hv htree
  obtain ⟨c, hc, hcodes⟩ := arenaCodes_of_treeOk htree
  exact ⟨_, congrArg settleStop (codegenBody_of_some hv hc), ⟨rfl, rfl, rfl, rfl, rfl⟩, hv, rfl, hcodes, rfl, rfl, rfl,
    ⟨rfl, fun _ => rfl⟩, sameHostSide.refl s⟩

/-- Settles O28: a code is the path of its symbol's leaf, whose length the tree bounds. -/
theorem codeLengthsAreBounded : Obligations.CodeLengthsAreBounded := by
  intro s ⟨htree, hcodes⟩ hv a ha
  obtain ⟨hvalid, hhas, hcode⟩ := hcodes hv
  obtain ⟨htree, -⟩ := htree hvalid
  obtain ⟨-, -, -, -, -, ⟨-, -, hall⟩, -, -⟩ := id htree
  obtain ⟨i, hi, rfl⟩ := hall a (mem_allSymbols a) ((hhas a (mem_allSymbols a)).1 ▸ ha)
  have hi := List.mem_range.mp hi
  obtain ⟨code, hleaf, hmax, hmin⟩ := leafCode_of_treeOk htree hi
  obtain ⟨hpath, -⟩ := hcode i hi
  obtain rfl := Option.some.inj (hleaf.symm.trans hpath)
  exact ⟨fun hn => List.eq_nil_of_length_eq_zero (by omega), fun hn => ⟨hmin hn, hmax⟩⟩

end Sys2Proof.Machine
end

section
/-! SUPPORT. Which parts of the state each command body writes, and under which conditions. `EngineMove` says what elementary
writes there are; here they are sorted by the part they write and carry what the pseudocode has checked before them, so that
the frame of one command, the bounds on IN_PTR and the table invariant are each one small goal per elementary write. -/

namespace Sys2Proof.Machine

/-! ### Writes by the part of the state they touch -/

/-- The parts of the state that commands write. -/
inductive Part where
  | input
  | restart
  | output
  | table
  | tree
  | codes
  | packer
  | walker

/-- An elementary write of a part, with what the pseudocode has checked before it. -/
inductive PartMove : Part → State → State → Prop where
  /-- `k` bytes of the input are read, and as many are left (R75, R76). -/
  | read (s : State) (k : Nat) (left : s.inPtr.toNat + k ≤ s.inLen.toNat) : PartMove .input s (s.readPast k)
  /-- COMPRESS goes back to the start of the input (R242). -/
  | restart (s : State) : PartMove .restart s { s with inPtr := 0 }
  /-- A byte is appended to the output, where OBUF has room for it (R77). -/
  | emit (s : State) (v : Byte) (room : s.outPtr.toNat < s.cfg.obufSize) : PartMove .output s (s.wrote [v])
  /-- The frequency table is emptied (R141). -/
  | clearFt (s : State) : PartMove .table s s.clearFt
  /-- An entry of the table is written, while no tree is valid (R142, R163). -/
  | putFt (s : State) (sym : Byte) (e : FtEntry) (tree : s.treeValid = false) (codes : s.codeValid = false) :
      PartMove .table s (s.putFt sym e)
  /-- BUILD fails (R181). -/
  | invalidateTree (s : State) : PartMove .tree s s.invalidateTree
  /-- BUILD stores the tree of the table (R181). -/
  | storeTree (s : State) (tree : Tree) (q : List NodeIx) (ok : State.treeOk { s with tree := tree })
      (order : State.mergeOrderOk { s with tree := tree }) :
      PartMove .tree s { s.invalidateTree with tree := tree, mergeQ := q, treeValid := true }
  /-- CODEGEN fails (R190). -/
  | invalidateCodes (s : State) : PartMove .codes s s.invalidateCodes
  /-- CODEGEN stores the codes of the tree (R190). -/
  | storeCodes (s : State) (codes : Vector CodeEntry 256) (valid : s.treeValid = true)
      (ok : s.treeOk → State.codesOk { s with codes := codes }) :
      PartMove .codes s { s.invalidateCodes with codes := codes, codeValid := true }
  /-- The encoder's accumulator changes (R200, R201). -/
  | pack (s : State) (acc : Byte) (nacc : Fin 9) : PartMove .packer s { s with acc := acc, nacc := nacc }
  /-- The decoder's walk state changes (R220). -/
  | walk (s : State) (w : Walk) : PartMove .walker s { s with walk := w }

/-- `t` comes from `s` by writes of the parts `K`. -/
def Writes (K : List Part) : State → State → Prop := Relation.ReflTransGen fun s t => ∃ p ∈ K, PartMove p s t

theorem Writes.refl {K : List Part} {s : State} : Writes K s s := Relation.ReflTransGen.refl

theorem Writes.trans {K : List Part} {s t u : State} (h : Writes K s t) (h' : Writes K t u) : Writes K s u :=
  Relation.ReflTransGen.trans h h'

theorem Writes.one {K : List Part} {p : Part} {s t : State} (h : PartMove p s t) (hp : p ∈ K := by simp) : Writes K s t :=
  .single ⟨p, hp, h⟩

theorem Writes.mono {K K' : List Part} (hK : K ⊆ K') {s t : State} (h : Writes K s t) : Writes K' s t :=
  Relation.ReflTransGen.mono (fun _ _ hst => hst.imp fun _ hp => hp.imp_left (@hK _)) _ _ h

/-- What each write of a part in `K` keeps is kept by any sequence of them. -/
theorem Writes.keeps {K : List Part} {P : State → Prop} (keep : ∀ p ∈ K, ∀ {s t}, PartMove p s t → P s → P t)
    {s t : State} (h : Writes K s t) (hs : P s) : P t := by
  induction h with
  | refl => exact hs
  | tail _ hmove ih =>
    obtain ⟨p, hp, hmove⟩ := hmove
    exact keep p hp hmove ih

/-! ### What a write leaves alone -/

section Frames
variable {p : Part} {s t : State}

theorem PartMove.inLen_eq (h : PartMove p s t) : t.inLen = s.inLen := by
  cases h <;> rfl

theorem PartMove.inPtr_eq (h : PartMove p s t) (hi : p ≠ .input) (hr : p ≠ .restart) : t.inPtr = s.inPtr := by
  cases h with
  | read => exact absurd rfl hi
  | restart => exact absurd rfl hr
  | _ => rfl

theorem PartMove.sameOutput (h : PartMove p s t) (hp : p ≠ .output) : sameOutput s t := by
  cases h with
  | emit => exact absurd rfl hp
  | _ => exact ⟨rfl, fun _ => rfl⟩

theorem PartMove.ft_eq (h : PartMove p s t) (hp : p ≠ .table) : t.ft = s.ft := by
  cases h with
  | clearFt | putFt => exact absurd rfl hp
  | _ => rfl

theorem PartMove.tree_eq (h : PartMove p s t) (hp : p ≠ .tree) : t.tree = s.tree ∧ t.mergeQ = s.mergeQ := by
  cases h with
  | invalidateTree | storeTree => exact absurd rfl hp
  | _ => exact ⟨rfl, rfl⟩

theorem PartMove.codes_eq (h : PartMove p s t) (hp : p ≠ .codes) : t.codes = s.codes := by
  cases h with
  | invalidateCodes | storeCodes => exact absurd rfl hp
  | _ => rfl

theorem PartMove.treeValid_eq (h : PartMove p s t) (ht : p ≠ .table) (hb : p ≠ .tree) : t.treeValid = s.treeValid := by
  cases h with
  | clearFt | putFt => exact absurd rfl ht
  | invalidateTree | storeTree => exact absurd rfl hb
  | _ => rfl

theorem PartMove.codeValid_eq (h : PartMove p s t) (ht : p ≠ .table) (hb : p ≠ .tree) (hc : p ≠ .codes) :
    t.codeValid = s.codeValid := by
  cases h with
  | clearFt | putFt => exact absurd rfl ht
  | invalidateTree | storeTree => exact absurd rfl hb
  | invalidateCodes | storeCodes => exact absurd rfl hc
  | _ => rfl

theorem PartMove.packer_eq (h : PartMove p s t) (hp : p ≠ .packer) : t.acc = s.acc ∧ t.nacc = s.nacc := by
  cases h with
  | pack => exact absurd rfl hp
  | _ => exact ⟨rfl, rfl⟩

theorem PartMove.walk_eq (h : PartMove p s t) (hp : p ≠ .walker) : t.walk = s.walk := by
  cases h with
  | walk => exact absurd rfl hp
  | _ => rfl

/-- Whatever view of the state no write of a part in `K` changes, no sequence of them changes. -/
theorem Writes.frame {K : List Part} {α : Type} (view : State → α)
    (keep : ∀ p ∈ K, ∀ {s t}, PartMove p s t → view t = view s) (h : Writes K s t) : view t = view s :=
  h.keeps (P := fun u => view u = view s) (fun p hp _ _ hmove hu => (keep p hp hmove).trans hu) rfl

theorem Writes.inLen_eq {K : List Part} (h : Writes K s t) : t.inLen = s.inLen :=
  h.frame State.inLen fun _ _ => PartMove.inLen_eq

theorem Writes.inPtr_eq {K : List Part} (h : Writes K s t) (hi : .input ∉ K) (hr : .restart ∉ K) : t.inPtr = s.inPtr :=
  h.frame State.inPtr fun _ hp _ _ hmove => hmove.inPtr_eq (fun e => hi (e ▸ hp)) (fun e => hr (e ▸ hp))

end Frames

/-! ### Pieces of pseudocode -/

/-- The rule of consequence. -/
theorem Post.imp {ε α : Type} {E E' : ε → Prop} {Q Q' : α → Prop} {r : Except ε α} (hE : ∀ e, E e → E' e)
    (hQ : ∀ a, Q a → Q' a) (h : Post E Q r) : Post E' Q' r := by
  cases r with
  | ok a => exact hQ a h
  | error e => exact hE e h

/-- Run from `s`, the piece `r` writes only the parts `K`, up to the state `out` reads off its value, or up to the state in
which it raises. -/
def RunWrites (K : List Part) {α : Type} (out : α → State) (s : State) (r : Run α) : Prop :=
  Post (fun e => Writes K s e.state) (fun a => Writes K s (out a)) r

section RunWrites
variable {K : List Part} {α β : Type} {out : α → State} {out' : β → State} {s t : State}

theorem RunWrites.ok {a : α} (h : Writes K s (out a)) : RunWrites K out s (.ok a) := h

theorem RunWrites.error {e : Raise} (h : Writes K s e.state) : RunWrites K out s (.error e) := h

theorem RunWrites.trans {r : Run α} (h : Writes K s t) (hr : RunWrites K out t r) : RunWrites K out s r := by
  cases r with
  | ok a => exact Writes.trans h hr
  | error e => exact Writes.trans h hr

/-- An elementary write, and then a piece. -/
theorem RunWrites.after {p : Part} {r : Run α} (h : PartMove p s t) (hr : RunWrites K out t r) (hp : p ∈ K := by simp) :
    RunWrites K out s r :=
  .trans (.one h hp) hr

theorem RunWrites.bind {r : Run α} {f : α → Run β} (hr : RunWrites K out s r)
    (hf : ∀ a, Writes K s (out a) → RunWrites K out' (out a) (f a)) : RunWrites K out' s (r >>= f) :=
  Post.bind hr fun a ha => RunWrites.trans ha (hf a ha)

theorem RunWrites.mono {K' : List Part} {r : Run α} (hr : RunWrites K out s r) (hK : K ⊆ K' := by simp) :
    RunWrites K' out s r := by
  cases r with
  | ok a => exact Writes.mono hK hr
  | error e => exact Writes.mono hK hr

/-- A piece that writes fewer parts, where the rest needs to know them. -/
theorem RunWrites.bindFrom {K' : List Part} {r : Run State} {f : State → Run State} (hr : RunWrites K' id s r)
    (hf : ∀ t, Writes K' s t → RunWrites K id t (f t)) (hK : K' ⊆ K := by simp) : RunWrites K id s (r >>= f) := by
  cases r with
  | ok t => exact .trans (Writes.mono hK hr) (hf t hr)
  | error e => exact Writes.mono hK hr

end RunWrites

/-! ### The shared operations -/

theorem inputChecks_bind {K : List Part} {s : State} {f : Unit → Run State}
    (hf : s.inPtr.toNat ≤ s.inLen.toNat → RunWrites K id s (f ())) : RunWrites K id s (s.inputChecks >>= f) := by
  rcases s.inputChecks_cases with ⟨⟨-, -, hle⟩, h⟩ | ⟨_, h⟩ | ⟨_, _, h⟩ <;> rw [h]
  · exact hf hle
  · exact .error .refl
  · exact .error .refl

theorem need_bind {K : List Part} {s : State} {k : Nat} {info : Word} {f : Unit → Run State}
    (hf : s.inPtr.toNat + k ≤ s.inLen.toNat → RunWrites K id s (f ())) : RunWrites K id s (s.need k info >>= f) := by
  rcases s.need_cases k info with ⟨hle, h⟩ | ⟨_, h⟩ <;> rw [h]
  · exact hf hle
  · exact .error .refl

theorem fetch_state {s t : State} {b : Byte} (h : s.fetch = (b, t)) : t = s.readPast 1 :=
  (congrArg Prod.snd h).symm

theorem readLe8_state {s t : State} {c : Count} (h : s.readLe8 = (c, t)) : t = s.readPast 8 := by
  rw [State.readLe8_eq] at h
  exact (congrArg Prod.snd h).symm

/-- IN_PTR as a number after a read inside the input. -/
theorem State.readPast_toNat {s : State} {k : Nat} (h : s.inPtr.toNat + k ≤ s.inLen.toNat) :
    (s.readPast k).inPtr.toNat = s.inPtr.toNat + k := by
  have hlen := s.inLen.isLt
  rw [State.readPast_inPtr, BitVec.toNat_add, BitVec.toNat_ofNat, Nat.add_mod_mod, Nat.mod_eq_of_lt (by omega)]

theorem emit_writes (s : State) (v : Byte) : RunWrites [.output] id s (s.emit v) := by
  rcases s.emit_cases v with ⟨room, h⟩ | ⟨_, h⟩ <;> rw [h]
  · exact .ok (.one (.emit s v room))
  · exact .error .refl

theorem emitMany_writes (bs : List Byte) (s : State) : RunWrites [.output] id s (State.emitMany bs s) := by
  induction bs generalizing s with
  | nil => exact .ok .refl
  | cons b bs ih => exact (emit_writes s b).bind fun t _ => ih t

/-! ### CLEAR and COUNT -/

theorem clearBody_writes (s : State) : RunWrites [.table] id s (clearBody s) := .ok (.one (.clearFt s))

theorem countLoop_writes {k : Nat} {s : State} (hk : s.inPtr.toNat + k ≤ s.inLen.toNat) (ht : s.treeValid = false)
    (hc : s.codeValid = false) : Writes [.table, .input] s (countLoop k s) := by
  induction k generalizing s with
  | zero => exact .refl
  | succ k ih =>
    have hptr := State.readPast_toNat (s := s) (k := 1) (by omega)
    refine .trans (.one (.read s 1 (by omega))) (.trans (.one (.putFt _ _ _ ht hc)) (ih (s := countOne s) ?_ ht hc))
    change (s.readPast 1).inPtr.toNat + k ≤ s.inLen.toNat
    omega

theorem countBody_writes (s : State) : RunWrites [.table, .input] id s (countBody s) :=
  inputChecks_bind fun hle => .after (.clearFt s)
    (.ok (countLoop_writes (by change s.inPtr.toNat + (s.inLen.toNat - s.inPtr.toNat) ≤ s.inLen.toNat; omega) rfl rfl))

/-! ### BUILD and CODEGEN -/

theorem buildBody_writes (s : State) : RunWrites [.tree] id s (buildBody s) := by
  obtain ⟨-, h⟩ | ⟨-, -, h⟩ | ⟨-, -, tree, q, h, htree, horder⟩ := buildBody_cases s <;> rw [h]
  · exact .error (.one (.invalidateTree s))
  · exact .error (.one (.invalidateTree s))
  · exact .ok (.one (.storeTree s tree q htree horder))

/-! ### WRHDR and RDHDR -/

theorem writeEntries_writes (syms : List Byte) (s : State) : RunWrites [.output] id s (writeEntries syms s) := by
  induction syms generalizing s with
  | nil => exact .ok .refl
  | cons sym rest ih =>
    unfold writeEntries
    split
    · exact (emit_writes s sym).bind fun t _ => (emitMany_writes _ t).bind fun u _ => ih u
    · exact ih s

theorem wrhdrBody_writes (s : State) : RunWrites [.output] id s (wrhdrBody s) :=
  (emitMany_writes magic s).bind fun t _ => (emitMany_writes _ t).bind fun u _ => writeEntries_writes allSymbols u

theorem readEntries_writes (k i : Nat) {s : State} (ht : s.treeValid = false) (hc : s.codeValid = false) :
    RunWrites [.table, .input] id s (readEntries k i s) := by
  induction k generalizing i s with
  | zero => exact .ok .refl
  | succ k ih =>
    refine need_bind fun hle => ?_
    split
    next sym t hsym =>
    split
    next c u hcount =>
    obtain rfl := readLe8_state hcount
    obtain rfl := fetch_state hsym
    have hptr := State.readPast_toNat (s := s) (k := 1) (by omega)
    have hle' : (s.readPast 1).inPtr.toNat + 8 ≤ (s.readPast 1).inLen.toNat := by
      change _ ≤ s.inLen.toNat
      omega
    refine .after (.read s 1 (by omega)) (.after (.read (s.readPast 1) 8 hle') ?_)
    split
    · exact .error .refl
    · exact .after (.putFt _ _ _ ht hc) (ih _ ht hc)

theorem rdhdrBody_writes (s : State) : RunWrites [.table, .input] id s (rdhdrBody s) := by
  refine inputChecks_bind fun _ => .after (.clearFt s) (need_bind fun hle => ?_)
  split
  next m0 s0 h0 =>
  split
  next m1 s1 h1 =>
  split
  next m2 s2 h2 =>
  obtain rfl : s2 = s.clearFt.readPast 3 := by
    rw [fetch_state h2, fetch_state h1, fetch_state h0, State.readPast_readPast, State.readPast_readPast]
  refine .after (.read s.clearFt 3 hle) ?_
  split
  · exact .error .refl
  · refine need_bind fun hle => ?_
    split
    next cnt t hcnt =>
    obtain rfl := readLe8_state hcnt
    refine .after (.read _ 8 hle) ?_
    split
    · exact .error .refl
    · split
      · exact .error .refl
      · exact readEntries_writes _ _ rfl rfl

/-! ### ENCODE -/

theorem pushBit_writes (b : Bool) (s : State) : RunWrites [.output, .packer] id s (pushBit b s) := by
  unfold pushBit
  refine .after (.pack s (writeBit s.acc (7 - s.nacc.val) b) (s.nacc + 1)) ?_
  dsimp only
  split
  · exact (emit_writes _ _).mono.bind fun t _ => .ok (.one (.pack t 0 0))
  · exact .ok .refl

theorem pushBits_writes (bs : List Bool) (s : State) : RunWrites [.output, .packer] id s (pushBits bs s) := by
  induction bs generalizing s with
  | nil => exact .ok .refl
  | cons b bs ih => exact (pushBit_writes b s).bind fun t _ => ih t

/-- A turn of ENCODE reads one byte. -/
theorem encodeOne_writes {s : State} (hleft : s.inPtr.toNat + 1 ≤ s.inLen.toNat) :
    Post (fun e => Writes [.input, .output, .packer] s e.state)
      (fun t => Writes [.input, .output, .packer] s t ∧ t.inPtr = (s.readPast 1).inPtr) (encodeOne s) := by
  have hread : Writes [.input, .output, .packer] s (s.readPast 1) := .one (.read s 1 hleft)
  unfold encodeOne
  split
  next sym t hsym =>
  obtain rfl := fetch_state hsym
  split
  · exact hread
  · exact Post.imp (fun e he => hread.trans (he.mono (by simp)))
      (fun t ht => ⟨hread.trans (ht.mono (by simp)), ht.inPtr_eq (by simp) (by simp)⟩) (pushBits_writes _ (s.readPast 1))

theorem encodeLoop_writes {k : Nat} {s : State} (hk : s.inPtr.toNat + k ≤ s.inLen.toNat) :
    RunWrites [.input, .output, .packer] id s (encodeLoop k s) := by
  induction k generalizing s with
  | zero => exact .ok .refl
  | succ k ih =>
    refine Post.bind (encodeOne_writes (by omega)) fun t ⟨ht, hptr⟩ => RunWrites.trans ht (ih ?_)
    rw [hptr, ht.inLen_eq, State.readPast_toNat (by omega)]
    omega

theorem flush_writes (z : Bool) (s : State) : RunWrites [.output, .packer] id s (flush z s) := by
  have reset : ∀ t : State, RunWrites [.output, .packer] id t (.ok { t with acc := 0, nacc := 0 }) :=
    fun t => .ok (.one (.pack t 0 0))
  unfold flush
  split <;> split
  · exact (emit_writes s _).mono.bind fun t _ => reset t
  · exact reset s
  · exact (emit_writes s _).mono.bind fun t _ => reset t
  · exact reset s

theorem encodeBody_writes (z : Bool) (s : State) : RunWrites [.input, .output, .packer] id s (encodeBody z s) := by
  refine inputChecks_bind fun hle => ?_
  dsimp only
  split
  · exact .error .refl
  · refine .after (.pack s 0 0) (RunWrites.bind (encodeLoop_writes ?_) fun t _ => (flush_writes z t).mono)
    change s.inPtr.toNat + (s.inLen.toNat - s.inPtr.toNat) ≤ s.inLen.toNat
    omega

/-! ### DECODE -/

theorem emitRoot_writes (sym : Byte) (k : Nat) (s : State) : RunWrites [.output, .walker] id s (emitRoot sym k s) := by
  induction k generalizing s with
  | zero => exact .ok .refl
  | succ k ih => exact (emit_writes s sym).mono.bind fun t _ => .after (.walk t _) (ih _)

theorem walkBit_writes (s : State) : RunWrites [.output, .walker] Prod.snd s (walkBit s) := by
  unfold walkBit
  extract_lets x cur
  refine .after (.walk s { s.walk with cur := cur }) ?_
  dsimp only
  split
  · exact (emit_writes _ _).mono.bind fun t _ => RunWrites.ok (out := Prod.snd) (.one (.walk t _))
  · exact .ok .refl

theorem walkByte_writes (pos : Nat) (s : State) : RunWrites [.output, .walker] id s (walkByte pos s) := by
  induction pos generalizing s with
  | zero => exact .after (.walk s _) ((walkBit_writes _).bind fun _ _ => .ok .refl)
  | succ pos ih =>
    refine .after (.walk s _) ((walkBit_writes _).bind fun p _ => ?_)
    obtain ⟨last, t⟩ := p
    dsimp only
    split
    · exact .ok .refl
    · exact ih t

theorem decodeLoop_writes {k : Nat} {s : State} (hk : s.inPtr.toNat + k ≤ s.inLen.toNat) :
    RunWrites [.input, .output, .walker] id s (decodeLoop k s) := by
  induction k generalizing s with
  | zero =>
    unfold decodeLoop
    split
    · exact .error .refl
    · exact .ok .refl
  | succ k ih =>
    unfold decodeLoop
    split
    · have hptr := State.readPast_toNat (s := s) (k := 1) (by omega)
      refine .after (.read s 1 (by omega)) (.after (.walk _ _) ((walkByte_writes 7 _).bindFrom fun t ht => ih ?_))
      rw [ht.inPtr_eq (by simp) (by simp), ht.inLen_eq]
      change (s.readPast 1).inPtr.toNat + k ≤ s.inLen.toNat
      omega
    · exact .ok .refl

theorem decodeBody_writes (s : State) : RunWrites [.input, .output, .walker] id s (decodeBody s) := by
  refine inputChecks_bind fun hle => ?_
  dsimp only
  split
  · exact .error .refl
  · refine .after (.walk s { s.walk with total := BitVec.ofNat 64 s.ftTotal, emitted := 0 }) ?_
    split
    · exact (emitRoot_writes _ _ _).mono
    · refine .after (.walk _ _) (decodeLoop_writes ?_)
      change s.inPtr.toNat + (s.inLen.toNat - s.inPtr.toNat) ≤ s.inLen.toNat
      omega

end Sys2Proof.Machine
end

section
/-! SUPPORT. Every command as writes of its parts and a completion step, the frames of all commands that follow, and the table
invariant under every step. -/

namespace Sys2Proof.Machine

/-! ### The table invariant under an elementary write -/

/-- An elementary write keeps what TREE_VALID and CODE_VALID promise. -/
theorem PartMove.keeps_tables {p : Part} {s t : State} (h : PartMove p s t) (hs : s.TablesInv) : t.TablesInv := by
  cases h with
  | read | restart | emit | pack | walk => exact hs
  | clearFt | invalidateTree => exact State.TablesInv_of_invalid rfl rfl
  | putFt _ _ _ tree codes => exact State.TablesInv_of_invalid tree codes
  | storeTree _ _ _ ok order => exact ⟨fun _ => ⟨ok, order⟩, fun h => Bool.noConfusion h⟩
  | invalidateCodes => exact ⟨hs.1, fun h => Bool.noConfusion h⟩
  | storeCodes _ _ valid ok => exact ⟨hs.1, fun _ => ⟨valid, ok (hs.1 valid).1⟩⟩

theorem Writes.keeps_tables {K : List Part} {s t : State} (h : Writes K s t) (hs : s.TablesInv) : t.TablesInv :=
  h.keeps (fun _ _ _ _ hmove => hmove.keeps_tables) hs

/-! ### The bodies that can get stuck -/

/-- Run from `s`, the piece `r` writes only the parts `K`; it gets stuck only where the table invariant fails. -/
def StopWrites (K : List Part) (s : State) (r : Except Stop State) : Prop :=
  Post (fun | .raised e => Writes K s e.state | .stuck _ => ¬s.TablesInv) (Writes K s) r

section StopWrites
variable {K : List Part} {s t : State}

theorem StopWrites.trans {r : Except Stop State} (h : Writes K s t) (hr : StopWrites K t r) : StopWrites K s r := by
  match r with
  | .ok _ => exact Writes.trans h hr
  | .error (.raised _) => exact Writes.trans h hr
  | .error (.stuck _) => exact fun hs => hr (h.keeps_tables hs)

theorem StopWrites.bind {K' : List Part} {r : Except Stop State} {f : State → Except Stop State} (hr : StopWrites K' s r)
    (hf : ∀ t, StopWrites K t (f t)) (hK : K' ⊆ K := by simp) : StopWrites K s (r >>= f) := by
  match r with
  | .ok t => exact .trans (Writes.mono hK hr) (hf t)
  | .error (.raised _) => exact Writes.mono hK hr
  | .error (.stuck _) => exact hr

theorem StopWrites.liftRun {r : Run State} (hr : RunWrites K id s r) : StopWrites K s (liftRun r) := by
  cases r with
  | ok a => exact hr
  | error e => exact hr

end StopWrites

theorem codegenBody_writes (s : State) : StopWrites [.codes] s (codegenBody s) := by
  cases hv : s.treeValid with
  | false =>
    rw [codegenBody_of_invalid hv]
    exact Writes.one (.invalidateCodes s)
  | true =>
    cases hc : s.arenaCodes with
    | none =>
      rw [codegenBody_of_none hv hc]
      intro hs
      obtain ⟨c, hsome, -⟩ := arenaCodes_of_treeOk (hs.1 hv).1
      exact nomatch hc.symm.trans hsome
    | some c =>
      rw [codegenBody_of_some hv hc]
      refine Writes.one (.storeCodes s c hv fun htree => ?_)
      obtain ⟨c', hsome, hok⟩ := arenaCodes_of_treeOk htree
      obtain rfl := Option.some.inj (hc.symm.trans hsome)
      exact hok

/-! ### Every command -/

/-- The state a command starts from: the whole operations first set both pointers to 0 (R242, R243). -/
def commandEntry (i : Instr) (s : State) : State :=
  match i with
  | .compress _ => s.rewind
  | .decompress => s.rewind
  | _ => s

/-- The pseudocode of a command. -/
def commandBody (i : Instr) (s : State) : Except Stop State :=
  match i with
  | .nop => .ok s
  | .clear => liftRun (clearBody s)
  | .count => liftRun (countBody s)
  | .build => liftRun (buildBody s)
  | .codegen => codegenBody s
  | .wrhdr => liftRun (wrhdrBody s)
  | .encode z => liftRun (encodeBody z s)
  | .rdhdr => liftRun (rdhdrBody s)
  | .decode => liftRun (decodeBody s)
  | .compress z => compressBody z s
  | .decompress => liftRun (decompressBody s)

/-- The parts of the state a command writes (R101, 40_frequency.md to 45_operations.md). -/
def commandParts : Instr → List Part
  | .nop => []
  | .clear => [.table]
  | .count => [.table, .input]
  | .build => [.tree]
  | .codegen => [.codes]
  | .wrhdr => [.output]
  | .encode _ => [.input, .output, .packer]
  | .rdhdr => [.table, .input]
  | .decode => [.input, .output, .walker]
  | .compress _ => [.table, .input, .tree, .codes, .output, .restart, .packer]
  | .decompress => [.table, .input, .tree, .output, .walker]

theorem exec_eq_settleStop (i : Instr) (s : State) : exec i s = settleStop (commandBody i s) := by
  cases i with
  | nop | codegen | compress => rfl
  | clear | count | build | wrhdr | encode | rdhdr | decode | decompress => exact (settleStop_liftRun _).symm

theorem compressBody_writes (z : Bool) (s : State) : StopWrites (commandParts (.compress z)) s.rewind (compressBody z s) := by
  unfold commandParts
  refine .bind (.liftRun (countBody_writes _)) fun s1 => ?_
  refine .bind (.liftRun (buildBody_writes s1)) fun s2 => ?_
  refine .bind (codegenBody_writes s2) fun s3 => ?_
  refine .bind (.liftRun (wrhdrBody_writes s3)) fun s4 => ?_
  exact .trans (.one (.restart s4)) (.liftRun (encodeBody_writes z _).mono)

theorem decompressBody_writes (s : State) : RunWrites (commandParts .decompress) id s.rewind (decompressBody s) := by
  unfold commandParts
  exact RunWrites.bindFrom (rdhdrBody_writes _) fun t _ => RunWrites.bindFrom (buildBody_writes t) fun u _ =>
    (decodeBody_writes u).mono

/-- Every command writes its parts, and no others. -/
theorem body_writes (i : Instr) (s : State) : StopWrites (commandParts i) (commandEntry i s) (commandBody i s) := by
  cases i with
  | nop => exact Writes.refl
  | clear => exact .liftRun (clearBody_writes s)
  | count => exact .liftRun (countBody_writes s)
  | build => exact .liftRun (buildBody_writes s)
  | codegen => exact codegenBody_writes s
  | wrhdr => exact .liftRun (wrhdrBody_writes s)
  | encode z => exact .liftRun (encodeBody_writes z s)
  | rdhdr => exact .liftRun (rdhdrBody_writes s)
  | decode => exact .liftRun (decodeBody_writes s)
  | compress z => exact compressBody_writes z s
  | decompress => exact .liftRun (decompressBody_writes s)

theorem commandEntry_tables {i : Instr} {s : State} (h : s.TablesInv) : (commandEntry i s).TablesInv := by
  cases i <;> exact h

/-- Everything a command can do: writes of its parts and then a completion step, or a fault where the table invariant fails. -/
theorem exec_cases (i : Instr) (s : State) :
    (∃ u t, Writes (commandParts i) (commandEntry i s) u ∧ Completes u t ∧ exec i s = .next t) ∨
      (¬s.TablesInv ∧ ∃ f, exec i s = .fault f) := by
  have hbody := body_writes i s
  rw [exec_eq_settleStop]
  match h : commandBody i s with
  | .ok u =>
    rw [h] at hbody
    exact .inl ⟨u, _, hbody, .inl rfl, rfl⟩
  | .error (.raised e) =>
    rw [h] at hbody
    exact .inl ⟨e.state, _, hbody, .inr ⟨e.cause, e.info, rfl⟩, rfl⟩
  | .error (.stuck f) =>
    rw [h] at hbody
    exact .inr ⟨fun hs => hbody (commandEntry_tables hs), f, rfl⟩

theorem exec_writes {i : Instr} {s t : State} (h : exec i s = .next t) :
    ∃ u, Writes (commandParts i) (commandEntry i s) u ∧ Completes u t := by
  obtain ⟨u, t', hu, hut, he⟩ | ⟨-, f, he⟩ := exec_cases i s
  · obtain rfl := Host.Outcome.next.inj (he.symm.trans h)
    exact ⟨u, hu, hut⟩
  · exact nomatch he.symm.trans h

/-- No command gets stuck where the table invariant holds. -/
theorem exec_next_of_tables (i : Instr) {s : State} (h : s.TablesInv) : ∃ t, exec i s = .next t := by
  obtain ⟨_, t, -, -, he⟩ | ⟨hn, -⟩ := exec_cases i s
  · exact ⟨t, he⟩
  · exact absurd h hn

theorem exec_keeps_tables {i : Instr} {s t : State} (h : s.TablesInv) (ht : exec i s = .next t) : t.TablesInv := by
  obtain ⟨u, hu, hut⟩ := exec_writes ht
  have hinv : u.TablesInv := hu.keeps_tables (commandEntry_tables h)
  rcases hut with rfl | ⟨c, info, rfl⟩ <;> exact hinv

/-! ### The table invariant under every step -/

theorem State.TablesInv.unlessBusy {s s' : State} (h : s.TablesInv) (h' : s'.TablesInv) : (s.unlessBusy s').TablesInv := by
  rcases s.unlessBusy_cases s' with ⟨_, he⟩ | ⟨_, he⟩ <;> rw [he]
  · exact h
  · exact h'

theorem State.TablesInv.accept {s : State} (h : s.TablesInv) (w : Word) : (s.accept w).TablesInv := by
  rcases s.accept_cases w with ⟨_, _, he⟩ | ⟨_, _, he⟩ <;> rw [he] <;> exact h

/-- A register write: those of the FT window clear both validity bits (R46, R47), no other touches the tables. -/
theorem State.TablesInv.writeReg {s : State} (h : s.TablesInv) (w : Word) (r : Reg) : (s.writeReg w r).TablesInv := by
  cases r with
  | cmd => exact h.unlessBusy (h.accept w)
  | ftPresent | ftCntLo | ftCntHi => exact h.unlessBusy (State.TablesInv_of_invalid rfl rfl)
  | inLen | inPtr | outPtr | ftSel | nodeSel | codeSel | codeWsel => exact h.unlessBusy h
  | status | ctrl => exact h
  | err | errInfo | ftNsym | nodeInfo | nodeLinks | nodeWLo | nodeWHi | treeInfo | codeInfo | codeWord => exact h

theorem State.TablesInv.hostWrite {s : State} (h : s.TablesInv) (addr : Word) (size : Size) (w : Word) :
    (s.hostWrite addr size w).TablesInv := by
  unfold State.hostWrite
  split
  · exact h
  · exact h.writeReg w _
  · exact h.unlessBusy h
  · exact h.unlessBusy h

/-- A host operation keeps what the validity bits promise; RST clears them (R67). -/
theorem State.TablesInv.perform {s : State} (h : s.TablesInv) (op : HostOp) : (s.perform op).TablesInv := by
  cases op with
  | rst level =>
    cases level with
    | true => exact State.TablesInv_of_invalid rfl rfl
    | false => exact h
  | read addr size =>
    obtain ⟨herr, host, he⟩ := s.hostRead_frame addr size
    rw [State.perform, he]
    split <;> exact h
  | write addr size data =>
    rw [State.perform]
    split
    · exact h
    · exact h.hostWrite addr size data
  | wait =>
    obtain ⟨herr, host, he⟩ := s.waitTurn_frame
    rw [State.perform, he]
    split <;> exact h

theorem State.TablesInv.hostTurn {s : State} (h : s.TablesInv) : s.hostTurn.TablesInv := by
  unfold State.hostTurn
  split
  · exact h
  · have withHost : ∀ host, State.TablesInv { s with host := host } := fun _ => h
    exact (withHost _).perform _

/-- Settles O9: by the cases of a step. BUILD stores a tree only as its loop leaves it, CODEGEN the codes of such a tree, and
the table is written only while both validity bits are 0. -/
theorem stepKeepsTableInvariant : Obligations.StepKeepsTableInvariant := by
  intro s t h ht
  rcases step_cases s with ⟨_, he⟩ | ⟨_, _, he⟩ | ⟨_, _, w, p, _, ⟨i, _, he⟩ | ⟨_, _, he⟩⟩
  · cases he.symm.trans ht
    exact h.hostTurn
  · cases he.symm.trans ht
    exact h
  · exact exec_keeps_tables h (he.symm.trans ht)
  · cases he.symm.trans ht
    exact h

/-- Settles O10: the walk of CODEGEN is the only piece that can get stuck, and in a valid tree it ends. -/
theorem stepNeverStops : Obligations.StepNeverStops := by
  intro s h
  rcases step_cases s with ⟨_, he⟩ | ⟨_, _, he⟩ | ⟨_, _, w, p, _, ⟨i, _, he⟩ | ⟨_, _, he⟩⟩
  · exact ⟨_, he⟩
  · exact ⟨_, he⟩
  · rw [he]
    exact exec_next_of_tables i h
  · exact ⟨_, he⟩

end Sys2Proof.Machine
end

section
/-! SUPPORT. The frames of all commands: what no command changes, where the output goes, which tables and engine registers each
command leaves alone, and the bounds on IN_PTR. -/

namespace Sys2Proof.Machine

/-! ### The host's side -/

/-- No elementary write touches the host's side. -/
theorem EngineMove.keeps_hostSide {s u v : State} (h : EngineMove u v) (hu : sameHostSide s u) : sameHostSide s v := by
  cases h <;> exact hu

/-- Settles O13: a command is elementary writes and a completion step, none of which touches the host's side. -/
theorem commandsLeaveHostSide : Obligations.CommandsLeaveHostSide := by
  intro i s t h
  obtain ⟨u, hsu, hut⟩ := exec_completes h
  have hu : sameHostSide s u := hsu.keeps EngineMove.keeps_hostSide (.refl s)
  rcases hut with rfl | ⟨c, info, rfl⟩ <;> exact ⟨hu, rfl⟩

/-! ### The output stream -/

/-- From `s` to `t` the output stream has only grown (R28, R77). -/
structure OutputGrows (s t : State) : Prop where
  cfg : t.cfg = s.cfg
  start : s.outPtr.toNat ≤ t.outPtr.toNat
  bound : t.outPtr.toNat ≤ max s.outPtr.toNat s.cfg.obufSize
  outside : ∀ k, k < s.outPtr.toNat ∨ t.outPtr.toNat ≤ k → t.obufAt k = s.obufAt k

theorem OutputGrows.refl (s : State) : OutputGrows s s := ⟨rfl, le_rfl, le_max_left _ _, fun _ _ => rfl⟩

/-- Appending a byte for which there is room. -/
theorem OutputGrows.wrote {s u : State} (h : OutputGrows s u) (hcfg : s.cfg.legal = true)
    (room : u.outPtr.toNat < u.cfg.obufSize) (v : Byte) : OutputGrows s (u.wrote [v]) := by
  obtain ⟨hc, hstart, hbound, hout⟩ := h
  obtain ⟨-, -, -, hsize⟩ := of_decide_eq_true hcfg
  rw [hc] at room
  have hptr : (u.wrote [v]).outPtr.toNat = u.outPtr.toNat + 1 :=
    u.wrote_outPtr_toNat [v] (by rw [List.length_singleton]; omega)
  refine ⟨hc, by omega, by omega, fun k hk => ?_⟩
  rw [hptr] at hk
  rw [u.obufAt_wrote_outside [v] k (by rw [List.length_singleton]; omega)]
  exact hout k (by omega)

theorem PartMove.outputGrows {p : Part} {s u v : State} (hcfg : s.cfg.legal = true) (h : PartMove p u v)
    (hu : OutputGrows s u) : OutputGrows s v := by
  cases h with
  | emit _ v room => exact hu.wrote hcfg room v
  | _ => exact ⟨hu.cfg, hu.start, hu.bound, hu.outside⟩

theorem outputBase_eq (i : Instr) (s : State) : outputBase i s = (commandEntry i s).outPtr.toNat := by
  cases i <;> rfl

theorem commandEntry_cfg (i : Instr) (s : State) : (commandEntry i s).cfg = s.cfg := by
  cases i <;> rfl

theorem commandEntry_obufAt (i : Instr) (s : State) (k : Nat) : (commandEntry i s).obufAt k = s.obufAt k := by
  cases i <;> rfl

/-- What the writes of the parts of a command keep, and its completion step, holds at its end. -/
theorem exec_keeps {P : State → Prop} {i : Instr} {s t : State} (h : exec i s = .next t)
    (keep : ∀ p ∈ commandParts i, ∀ {u v}, PartMove p u v → P u → P v)
    (completes : ∀ {u v}, Completes u v → P u → P v) (hs : P (commandEntry i s)) : P t := by
  obtain ⟨u, hu, hut⟩ := exec_writes h
  exact completes hut (hu.keeps keep hs)

theorem exec_outputGrows {i : Instr} {s t : State} (hcfg : s.cfg.legal = true) (h : exec i s = .next t) :
    OutputGrows (commandEntry i s) t := by
  rw [← commandEntry_cfg i s] at hcfg
  refine exec_keeps h (fun p _ _ _ hmove => hmove.outputGrows hcfg) ?_ (.refl _)
  rintro u v (rfl | ⟨c, info, rfl⟩) hu <;> exact ⟨hu.cfg, hu.start, hu.bound, hu.outside⟩

/-- A command that writes no output has no such part, and starts with OUT_PTR as it is. -/
theorem exec_sameOutput {i : Instr} {s t : State} (h : exec i s = .next t) (hi : writesOutput i = false) :
    sameOutput s t := by
  refine exec_keeps (P := sameOutput s) h (fun p hp u v hmove hu => ?_) ?_ ?_
  · have hne : p ≠ .output := by
      rintro rfl
      cases i <;> simp [commandParts, writesOutput] at hp hi
    obtain ⟨hptr, hbuf⟩ := hmove.sameOutput hne
    exact ⟨hptr.trans hu.1, fun k => (hbuf k).trans (hu.2 k)⟩
  · rintro u v (rfl | ⟨c, info, rfl⟩) hu <;> exact hu
  · cases i with
    | compress | decompress => exact nomatch hi
    | _ => exact ⟨rfl, fun _ => rfl⟩

/-- Settles O14: a byte is emitted only at OUT_PTR and only where OBUF has room. -/
theorem outputChangesOnlyWhereWritten : Obligations.OutputChangesOnlyWhereWritten := by
  intro i s t hcfg h
  obtain ⟨-, hstart, hbound, hout⟩ := exec_outputGrows hcfg h
  rw [outputBase_eq]
  rw [commandEntry_cfg] at hbound
  exact ⟨hstart, hbound, fun k hk => (hout k hk).trans (commandEntry_obufAt i s k), exec_sameOutput h⟩

/-! ### Tables and engine registers -/

/-- The frequency table, the arena with the merge sequence, the code table, the accumulator and the walk state. -/
structure SameEngine (K : List Part) (s t : State) : Prop where
  ft : .table ∉ K → t.ft = s.ft
  tree : .tree ∉ K → t.tree = s.tree ∧ t.mergeQ = s.mergeQ
  codes : .codes ∉ K → t.codes = s.codes
  treeValid : .table ∉ K → .tree ∉ K → t.treeValid = s.treeValid
  codeValid : .table ∉ K → .tree ∉ K → .codes ∉ K → t.codeValid = s.codeValid
  packer : .packer ∉ K → t.acc = s.acc ∧ t.nacc = s.nacc
  walker : .walker ∉ K → t.walk = s.walk

theorem PartMove.sameEngine {K : List Part} {p : Part} (hp : p ∈ K) {s u v : State} (h : PartMove p u v)
    (hu : SameEngine K s u) : SameEngine K s v := by
  have ne : ∀ {q}, q ∉ K → p ≠ q := fun hq => ne_of_mem_of_not_mem hp hq
  refine ⟨fun ht => ?_, fun hb => ?_, fun hc => ?_, fun ht hb => ?_, fun ht hb hc => ?_, fun hk => ?_, fun hw => ?_⟩
  · exact (h.ft_eq (ne ht)).trans (hu.ft ht)
  · obtain ⟨htree, hq⟩ := h.tree_eq (ne hb)
    exact ⟨htree.trans (hu.tree hb).1, hq.trans (hu.tree hb).2⟩
  · exact (h.codes_eq (ne hc)).trans (hu.codes hc)
  · exact (h.treeValid_eq (ne ht) (ne hb)).trans (hu.treeValid ht hb)
  · exact (h.codeValid_eq (ne ht) (ne hb) (ne hc)).trans (hu.codeValid ht hb hc)
  · obtain ⟨hacc, hnacc⟩ := h.packer_eq (ne hk)
    exact ⟨hacc.trans (hu.packer hk).1, hnacc.trans (hu.packer hk).2⟩
  · exact (h.walk_eq (ne hw)).trans (hu.walker hw)

/-- A command leaves every table and engine register alone that is none of its parts. -/
theorem exec_sameEngine {i : Instr} {s t : State} (h : exec i s = .next t) : SameEngine (commandParts i) s t := by
  refine exec_keeps h (fun p hp _ _ hmove => hmove.sameEngine hp) ?_ ?_
  · rintro u v (rfl | ⟨c, info, rfl⟩) hu <;>
      exact ⟨hu.ft, hu.tree, hu.codes, hu.treeValid, hu.codeValid, hu.packer, hu.walker⟩
  · cases i <;> exact ⟨fun _ => rfl, fun _ => ⟨rfl, rfl⟩, fun _ => rfl, fun _ _ => rfl, fun _ _ _ => rfl,
      fun _ => ⟨rfl, rfl⟩, fun _ => rfl⟩

/-- A command that reads no input leaves IN_PTR alone. -/
theorem exec_inPtr_eq {i : Instr} {s t : State} (h : exec i s = .next t) (hi : .input ∉ commandParts i)
    (hr : .restart ∉ commandParts i) : t.inPtr = (commandEntry i s).inPtr := by
  refine exec_keeps (P := fun u => u.inPtr = (commandEntry i s).inPtr) h (fun p hp u v hmove hu => ?_) ?_ rfl
  · exact (hmove.inPtr_eq (ne_of_mem_of_not_mem hp hi) (ne_of_mem_of_not_mem hp hr)).trans hu
  · rintro u v (rfl | ⟨c, info, rfl⟩) hu <;> exact hu

/-- Settles O15: a command writes only its parts, and the conditions of each clause keep the part out of the list. -/
theorem commandsLeaveOtherTables : Obligations.CommandsLeaveOtherTables := by
  intro i s t h
  have hs := exec_sameEngine h
  refine ⟨fun hz hi => hs.ft ?_, fun hz hi => hs.tree ?_, fun hz hi => hs.codes ?_,
    fun hz hi => ⟨hs.treeValid ?_ ?_, hs.codeValid ?_ ?_ ?_⟩, fun hi => hs.treeValid ?_ ?_,
    fun hi => (exec_inPtr_eq h ?_ ?_).trans ?_, fun hz => hs.packer ?_, fun hi => hs.walker ?_⟩
  all_goals clear h hs; cases i <;> simp_all [commandParts, commandEntry]

/-! ### The input pointer -/

/-- IN_PTR stays at most IN_LEN. -/
theorem PartMove.keeps_inPtr_le {p : Part} {u v : State} (h : PartMove p u v) (hu : u.inPtr.toNat ≤ u.inLen.toNat) :
    v.inPtr.toNat ≤ v.inLen.toNat := by
  cases h with
  | read _ k left => exact (State.readPast_toNat left).trans_le left
  | restart => exact Nat.zero_le _
  | _ => exact hu

/-- Only COMPRESS runs IN_PTR backwards, where it goes back to the start of the input. -/
theorem PartMove.inPtr_mono {p : Part} {u v : State} (h : PartMove p u v) (hp : p ≠ .restart) :
    u.inPtr.toNat ≤ v.inPtr.toNat := by
  cases h with
  | read _ k left => exact (Nat.le_add_right _ k).trans_eq (State.readPast_toNat left).symm
  | restart => exact absurd rfl hp
  | _ => exact le_rfl

/-- Settles O16: a byte is read only where one is left. -/
theorem inputPointerNeverWraps : Obligations.InputPointerNeverWraps := by
  intro i s t h hle
  constructor
  · refine exec_keeps (P := fun u => u.inPtr.toNat ≤ u.inLen.toNat) h (fun _ _ _ _ hmove => hmove.keeps_inPtr_le) ?_ ?_
    · rintro u v (rfl | ⟨c, info, rfl⟩) hu <;> exact hu
    · cases i with
      | compress | decompress => exact Nat.zero_le _
      | _ => exact hle
  · intro hd hz
    have hstep : .restart ∉ commandParts i ∧ commandEntry i s = s := by
      cases i with
      | compress z => exact absurd rfl (hz z)
      | decompress => exact absurd rfl hd
      | _ => simp [commandParts, commandEntry]
    obtain ⟨hr, hentry⟩ := hstep
    refine exec_keeps (P := fun u => s.inPtr.toNat ≤ u.inPtr.toNat) h (fun p hp u v hmove hu => ?_) ?_ (by rw [hentry])
    · exact hu.trans (hmove.inPtr_mono (ne_of_mem_of_not_mem hp hr))
    · rintro u v (rfl | ⟨c, info, rfl⟩) hu <;> exact hu

/-! ### The start check -/

/-- A body whose start check fails ends in the check's error, with nothing changed. -/
theorem settle_inputChecks_error {s : State} {e : Raise} (h : s.inputChecks = .error e) (f : Unit → Run State) :
    settle (s.inputChecks >>= f) = e.state.raise e.cause e.info := by
  rw [h]
  rfl

/-- Every command that reads the input runs its start check before anything else. -/
theorem exec_inputChecks_error {s : State} {e : Raise} (h : s.inputChecks = .error e) {i : Instr}
    (hi : i ∈ [.count, .encode false, .encode true, .rdhdr, .decode]) :
    exec i s = .next (e.state.raise e.cause e.info) := by
  simp only [List.mem_cons, List.not_mem_nil, or_false] at hi
  rcases hi with rfl | rfl | rfl | rfl | rfl <;> exact congrArg Host.Outcome.next (settle_inputChecks_error h _)

/-- Both whole operations run it after setting the pointers to 0. -/
theorem exec_rewind_inputChecks_error {s : State} {e : Raise} (h : s.rewind.inputChecks = .error e) {i : Instr}
    (hi : i ∈ [.compress false, .compress true, .decompress]) :
    exec i s = .next (e.state.raise e.cause e.info) := by
  have hcount : countBody s.rewind = .error e := by
    rw [countBody, h]
    rfl
  have hrdhdr : rdhdrBody s.rewind = .error e := by
    rw [rdhdrBody, h]
    rfl
  simp only [List.mem_cons, List.not_mem_nil, or_false] at hi
  rcases hi with rfl | rfl | rfl
  · rw [exec_eq_settleStop, commandBody, compressBody, hcount]
    rfl
  · rw [exec_eq_settleStop, commandBody, compressBody, hcount]
    rfl
  · rw [exec_eq_settleStop, commandBody, decompressBody, hrdhdr]
    rfl

theorem inputChecks_closed {s : State} (h : s.inEnSample = false) : s.inputChecks = .error ⟨.iifNotOpen, 0, s⟩ :=
  if_pos h

theorem inputChecks_range {s : State} (h : s.inEnSample = true)
    (hr : s.cfg.ibufSize < s.inLen.toNat ∨ s.inLen.toNat < s.inPtr.toNat) :
    s.inputChecks = .error ⟨.iifRange, s.inLen, s⟩ :=
  (if_neg (by simp [h])).trans (if_pos hr)

/-- Settles O20: the start check is the first line of every command that reads the input. -/
theorem startChecksRefuse : Obligations.StartChecksRefuse := by
  refine ⟨fun s i hi => ⟨fun h => ?_, fun h hr => ?_⟩, fun s i hi => ⟨fun h => ?_, fun h hr => ?_⟩⟩
  · exact exec_inputChecks_error (inputChecks_closed h) hi
  · exact exec_inputChecks_error (inputChecks_range h hr) hi
  · exact exec_rewind_inputChecks_error (inputChecks_closed h) hi
  · exact exec_rewind_inputChecks_error (inputChecks_range h (.inl hr)) hi

end Sys2Proof.Machine
end

section
/-! SUPPORT. Register words by bits and fields: STATUS and the table windows. -/

namespace Sys2Proof.Machine

/-! ### Bits and fields -/

theorem bitAt_getLsbD (b : Bool) {i : Nat} (hi : i < 32) (j : Nat) : (bitAt b i).getLsbD j = (b && decide (j = i)) := by
  have htwo : 1#32 <<< i = BitVec.twoPow 32 i := rfl
  have hj : (decide (i < 32) && decide (i = j)) = decide (j = i) := by simp [hi, eq_comm]
  cases b with
  | false => simp [bitAt]
  | true => rw [bitAt, if_pos rfl, htwo, BitVec.getLsbD_twoPow, hj, Bool.true_and]

theorem fieldAt_getLsbD {n : Nat} (v : BitVec n) (lo j : Nat) :
    (fieldAt v lo).getLsbD j = (decide (j < 32 ∧ lo ≤ j) && v.getLsbD (j - lo)) := by
  rw [fieldAt, BitVec.getLsbD_shiftLeft, BitVec.getLsbD_setWidth]
  have hlow : (!decide (j < lo)) = decide (lo ≤ j) := by rw [← decide_not, decide_eq_decide, Nat.not_lt]
  by_cases h : j < 32 ∧ lo ≤ j
  · obtain ⟨hj, hlo⟩ := h
    have hsub : j - lo < 32 := by omega
    simp only [hlow, hj, hlo, hsub, and_self, decide_true, Bool.true_and]
  · rw [decide_eq_false h, hlow, ← Bool.decide_and, decide_eq_false h]
    rfl

/-- A bit outside a slice does not show in it. -/
theorem extractLsb'_bitAt (b : Bool) {i start len : Nat} (hi : i < 32) (h : i < start ∨ start + len ≤ i) :
    (bitAt b i).extractLsb' start len = 0#len := by
  refine BitVec.eq_of_getLsbD_eq fun j hj => ?_
  rw [BitVec.getLsbD_extractLsb', bitAt_getLsbD b hi, decide_eq_false (show ¬start + j = i by omega)]
  simp

/-- A field in its own place reads back. -/
theorem extractLsb'_fieldAt_same {n : Nat} (v : BitVec n) {lo : Nat} (h : lo + n ≤ 32) :
    (fieldAt v lo).extractLsb' lo n = v := by
  refine BitVec.eq_of_getLsbD_eq fun j hj => ?_
  have hin : lo + j < 32 ∧ lo ≤ lo + j := by omega
  rw [BitVec.getLsbD_extractLsb', fieldAt_getLsbD, decide_eq_true hj, decide_eq_true hin, Nat.add_sub_cancel_left]
  simp

/-- A field outside a slice does not show in it. -/
theorem extractLsb'_fieldAt_other {n : Nat} (v : BitVec n) {lo start len : Nat} (h : start + len ≤ lo ∨ lo + n ≤ start) :
    (fieldAt v lo).extractLsb' start len = 0#len := by
  refine BitVec.eq_of_getLsbD_eq fun j hj => ?_
  rw [BitVec.getLsbD_extractLsb', fieldAt_getLsbD]
  rcases h with h | h
  · rw [decide_eq_false (show ¬(start + j < 32 ∧ lo ≤ start + j) by omega)]
    simp
  · rw [BitVec.getLsbD_of_ge v _ (by omega)]
    simp

/-- The low bits of a word, as a field at bit 0. -/
theorem fieldAt_low (w mask : Word) (n : Nat) (h : ∀ j < 32, mask.getLsbD j = decide (j < n)) :
    fieldAt (w.extractLsb' 0 n) 0 = w &&& mask := by
  refine BitVec.eq_of_getLsbD_eq fun j hj => ?_
  rw [fieldAt_getLsbD, BitVec.getLsbD_extractLsb', BitVec.getLsbD_and, h j hj, decide_eq_true ⟨hj, Nat.zero_le j⟩,
    Nat.sub_zero, Nat.zero_add, Bool.true_and, Bool.and_comm]

/-! ### STATUS and CTRL -/

theorem State.statusWord_getLsbD (s : State) (j : Nat) :
    s.statusWord.getLsbD j = ((s.busy && decide (j = 0)) || (s.done && decide (j = 1)) || (s.err && decide (j = 2)) ||
      (s.herr && decide (j = 3)) || (s.treeValid && decide (j = 4)) || (s.codeValid && decide (j = 5)) ||
      (s.irq && decide (j = 6))) := by
  simp (disch := omega) only [State.statusWord, BitVec.getLsbD_or, bitAt_getLsbD]

theorem State.ctrlWord_getLsbD (s : State) (j : Nat) :
    s.ctrlWord.getLsbD j =
      ((s.ctrl.inEn && decide (j = 0)) || (s.ctrl.ieDone && decide (j = 1)) || (s.ctrl.ieErr && decide (j = 2))) := by
  simp (disch := omega) only [State.ctrlWord, BitVec.getLsbD_or, bitAt_getLsbD]

/-- Settles O54: the word of STATUS bit by bit. -/
theorem statusShowsFlagsAndIrq : Obligations.StatusShowsFlagsAndIrq := by
  intro s
  have hbit := s.statusWord_getLsbD
  refine ⟨(hbit 0).trans (by simp), (hbit 1).trans (by simp), (hbit 2).trans (by simp), (hbit 3).trans (by simp),
    (hbit 4).trans (by simp), (hbit 5).trans (by simp), (hbit 6).trans (by simp [State.irq]), ?_, s.busy_iff, fun w => rfl⟩
  refine BitVec.eq_of_getLsbD_eq fun j _ => ?_
  have hne : ∀ k < 7, decide (7 + j = k) = false := fun k hk => decide_eq_false (by omega)
  simp [BitVec.getLsbD_ushiftRight, hbit, hne]

/-! ### The table windows -/

theorem State.nodeOk_of {s : State} (hv : s.treeValid = true) (hn : s.nodeSel.toNat < s.tree.count.val) :
    s.nodeOk = true := by
  simp [State.nodeOk, hv, hn]

theorem State.not_nodeOk_of {s : State} (h : s.treeValid = false ∨ s.tree.count.val ≤ s.nodeSel.toNat) :
    s.nodeOk = false := by
  rcases h with h | h <;> simp [State.nodeOk, h]

theorem fieldAt_ite {n : Nat} (b : Bool) (v : BitVec n) (lo : Nat) :
    (if b then fieldAt v lo else 0#32) = fieldAt (if b then v else 0#n) lo := by
  cases b <;> simp [fieldAt]

section Windows
variable {s : State}

theorem State.treeInfo_of_valid (h : s.treeValid = true) :
    s.readReg .treeInfo = fieldAt (BitVec.ofNat 9 s.tree.root.val) 0 ||| fieldAt (BitVec.ofNat 10 s.tree.count.val) 16 :=
  if_pos h

theorem State.nodeInfo_of_ok (h : s.nodeOk = true) :
    s.readReg .nodeInfo =
      bitAt true 0 ||| bitAt (s.node s.nodeSel.toNat).leaf 1 ||| bitAt (s.node s.nodeSel.toNat).hasp 2 |||
        fieldAt (if (s.node s.nodeSel.toNat).leaf then (s.node s.nodeSel.toNat).sym else 0#8) 8 |||
        fieldAt (if (s.node s.nodeSel.toNat).hasp then BitVec.ofNat 9 (s.node s.nodeSel.toNat).parent.val else 0#9) 16 := by
  rw [← fieldAt_ite, ← fieldAt_ite]
  exact if_pos h

theorem State.nodeLinks_of_ok (h : s.nodeOk = true) :
    s.readReg .nodeLinks =
      fieldAt (if (s.node s.nodeSel.toNat).leaf then 0#9 else BitVec.ofNat 9 (s.node s.nodeSel.toNat).left.val) 0 |||
        fieldAt (if (s.node s.nodeSel.toNat).leaf then 0#9 else BitVec.ofNat 9 (s.node s.nodeSel.toNat).right.val) 16 := by
  change s.nodeLinksWord = _
  have hsel : s.selectedNode = s.node s.nodeSel.toNat := rfl
  rw [State.nodeLinksWord, h, hsel]
  cases hleaf : (s.node s.nodeSel.toNat).leaf <;> simp [fieldAt]

theorem State.codeInfo_of_valid (h : s.codeValid = true) :
    s.readReg .codeInfo = bitAt (codeAt s.codes s.codeSel).has 0 ||| fieldAt (codeAt s.codes s.codeSel).len 8 :=
  if_pos h

/-- The two halves of a 64-bit value are the value. -/
theorem extractLsb'_halves (v : BitVec 64) : v.extractLsb' 32 32 ++ v.extractLsb' 0 32 = v :=
  (BitVec.extractLsb'_append_extractLsb'_eq_extractLsb' rfl).trans BitVec.extractLsb'_eq_self

theorem State.nodeW_of_ok (h : s.nodeOk = true) :
    (s.readReg .nodeWHi ++ s.readReg .nodeWLo : BitVec 64) = (s.node s.nodeSel.toNat).w := by
  have hhi : s.readReg .nodeWHi = s.selectedNode.w.extractLsb' 32 32 := if_pos h
  have hlo : s.readReg .nodeWLo = s.selectedNode.w.extractLsb' 0 32 := if_pos h
  rw [hhi, hlo]
  exact extractLsb'_halves _

end Windows

/-- Settles O55: each window word is the sum of its fields, which do not overlap. -/
theorem tableWindowsShowTables : Obligations.TableWindowsShowTables := by
  intro s
  refine ⟨fun h => if_neg (by simp [h]), fun h => ?_, fun h => ?_, fun h => ?_, fun hv hn => ?_, fun hv hn => ?_, fun h => ?_,
    fun h => ?_⟩
  · have hno := State.not_nodeOk_of h
    exact ⟨if_neg (by simp [hno]), if_neg (by simp [hno]), if_neg (by simp [hno]), if_neg (by simp [hno])⟩
  · rw [State.treeInfo_of_valid h]
    constructor <;> simp [BitVec.extractLsb'_or, extractLsb'_fieldAt_same, extractLsb'_fieldAt_other]
  · rw [State.treeInfo_of_valid h]
    constructor <;> simp [BitVec.extractLsb'_or, extractLsb'_fieldAt_other]
  · rw [State.nodeInfo_of_ok (State.nodeOk_of hv hn), State.nodeLinks_of_ok (State.nodeOk_of hv hn)]
    refine ⟨?_, ?_, ?_, ?_, ?_, ?_, ?_, ?_⟩ <;>
      simp [BitVec.extractLsb'_or, extractLsb'_bitAt, extractLsb'_fieldAt_same, extractLsb'_fieldAt_other]
  · rw [State.nodeInfo_of_ok (State.nodeOk_of hv hn)]
    simp (disch := omega) only [BitVec.getLsbD_or, bitAt_getLsbD, fieldAt_getLsbD]
    exact ⟨by simp, by simp, by simp, State.nodeW_of_ok (State.nodeOk_of hv hn)⟩
  · exact ⟨if_neg (by simp [h]), if_neg (by simp [h])⟩
  · have hword : s.readReg .codeWord = (codeAt s.codes s.codeSel).bits.extractLsb' (32 * s.codeWsel.toNat) 32 := if_pos h
    rw [State.codeInfo_of_valid h]
    refine ⟨?_, ?_, ?_, ?_, fun j hj => ?_⟩
    · simp [BitVec.extractLsb'_or, extractLsb'_bitAt, extractLsb'_fieldAt_other]
    · simp [BitVec.extractLsb'_or, extractLsb'_bitAt, extractLsb'_fieldAt_other]
    · simp (disch := omega) only [BitVec.getLsbD_or, bitAt_getLsbD, fieldAt_getLsbD]
      simp
    · simp [BitVec.extractLsb'_or, extractLsb'_bitAt, extractLsb'_fieldAt_same]
    · rw [hword, BitVec.getLsbD_extractLsb', decide_eq_true hj, Bool.true_and]

end Sys2Proof.Machine
end

section
/-! SUPPORT. What a host access reaches, and the host's reads and writes of registers and buffers. -/

namespace Sys2Proof.Machine

/-! ### Register accesses -/

theorem State.target_reg (s : State) (r : Reg) : s.target (BitVec.ofNat 32 r.offset) .word = some (.reg r) := by
  cases r <;> rfl

/-- A 32-bit write at a register's offset is a write of that register (R53). -/
theorem State.hostWrite_reg (s : State) (w : Word) (r : Reg) :
    s.hostWrite (BitVec.ofNat 32 r.offset) .word w = s.writeReg w r := by
  rw [State.hostWrite, s.target_reg r]

theorem State.unlessBusy_of_idle {s : State} (h : s.busy = false) (s' : State) : s.unlessBusy s' = s' :=
  if_neg (by simp [h])

/-- The registers R53 marks read-only. -/
def readOnlyRegs : List Reg :=
  [.err, .errInfo, .ftNsym, .nodeInfo, .nodeLinks, .nodeWLo, .nodeWHi, .treeInfo, .codeInfo, .codeWord]

theorem State.writeReg_readOnly (s : State) (w : Word) {r : Reg} (h : r ∈ readOnlyRegs) : s.writeReg w r = s.hostError := by
  cases r with
  | err | errInfo | ftNsym | nodeInfo | nodeLinks | nodeWLo | nodeWHi | treeInfo | codeInfo | codeWord => rfl
  | _ => simp [readOnlyRegs] at h

/-- CTRL reads back what was written to its three bits. -/
theorem State.ctrlWord_writeCtrl (s : State) (w : Word) : (s.writeCtrl w).ctrlWord = w &&& 0x00000007#32 := by
  have hmask : ∀ j < 32, (0x00000007#32).getLsbD j = decide (j < 3) := by decide
  refine BitVec.eq_of_getLsbD_eq fun j hj => ?_
  rw [State.ctrlWord_getLsbD, BitVec.getLsbD_and, hmask j hj]
  match j with
  | 0 => simp
  | 1 => simp
  | 2 => simp
  | j + 3 => simp

/-- Settles O60: each address is that of its register, and a write stores in that register alone. -/
theorem registerWritesStore : Obligations.RegisterWritesStore := by
  intro s w
  refine ⟨fun hb => ?_, s.hostWrite_reg w .ctrl, s.ctrlWord_writeCtrl w, fun a ha => ?_⟩
  · have hinLen : s.hostWrite 0x00000014#32 .word w = { s with inLen := w } :=
      (s.hostWrite_reg w .inLen).trans (State.unlessBusy_of_idle hb _)
    have hinPtr : s.hostWrite 0x00000018#32 .word w = { s with inPtr := w } :=
      (s.hostWrite_reg w .inPtr).trans (State.unlessBusy_of_idle hb _)
    have houtPtr : s.hostWrite 0x0000001C#32 .word w = { s with outPtr := w } :=
      (s.hostWrite_reg w .outPtr).trans (State.unlessBusy_of_idle hb _)
    have hftSel : s.hostWrite 0x00000020#32 .word w = { s with ftSel := w.extractLsb' 0 8 } :=
      (s.hostWrite_reg w .ftSel).trans (State.unlessBusy_of_idle hb _)
    have hnodeSel : s.hostWrite 0x00000040#32 .word w = { s with nodeSel := w.extractLsb' 0 9 } :=
      (s.hostWrite_reg w .nodeSel).trans (State.unlessBusy_of_idle hb _)
    have hcodeSel : s.hostWrite 0x00000060#32 .word w = { s with codeSel := w.extractLsb' 0 8 } :=
      (s.hostWrite_reg w .codeSel).trans (State.unlessBusy_of_idle hb _)
    have hcodeWsel : s.hostWrite 0x00000068#32 .word w = { s with codeWsel := w.extractLsb' 0 3 } :=
      (s.hostWrite_reg w .codeWsel).trans (State.unlessBusy_of_idle hb _)
    rw [hinLen, hinPtr, houtPtr, hftSel, hnodeSel, hcodeSel, hcodeWsel]
    exact ⟨rfl, rfl, rfl, rfl, rfl, rfl, rfl, rfl, rfl, rfl, fieldAt_low w _ 8 (by decide), fieldAt_low w _ 9 (by decide),
      fieldAt_low w _ 8 (by decide), fieldAt_low w _ 3 (by decide)⟩
  · obtain ⟨r, hr, rfl⟩ := List.mem_map.mp (show a ∈ readOnlyRegs.map fun r => BitVec.ofNat 32 r.offset from ha)
    exact (s.hostWrite_reg w r).trans (s.writeReg_readOnly w hr)

/-! ### The FT window -/

theorem State.ftAt_writeFtWindow (s : State) (e : FtEntry) (sym : Byte) :
    (s.writeFtWindow e).ftAt sym = if sym = s.ftSel then e else s.ftAt sym :=
  s.ftAt_putFt s.ftSel sym e

/-- What a write through the FT window leaves: one entry changed, no valid tree or codes, HERR as it was (R46, R47). -/
theorem State.writeFtWindow_frame (s : State) (e : FtEntry) :
    (s.writeFtWindow e).treeValid = false ∧ (s.writeFtWindow e).codeValid = false ∧
      (∀ a : Byte, a ≠ s.ftSel → (s.writeFtWindow e).ftAt a = s.ftAt a) ∧ (s.writeFtWindow e).herr = s.herr :=
  ⟨rfl, rfl, fun a ha => (s.ftAt_writeFtWindow e a).trans (if_neg ha), rfl⟩

/-- The entry FT_SEL selects reads back through the window. -/
theorem State.readReg_writeFtWindow (s : State) (e : FtEntry) :
    (s.writeFtWindow e).ftAt s.ftSel = e ∧ (s.writeFtWindow e).readReg .ftPresent = bitAt e.present 0 ∧
      (s.writeFtWindow e).readReg .ftCntLo = e.count.extractLsb' 0 32 ∧
      (s.writeFtWindow e).readReg .ftCntHi = e.count.extractLsb' 32 32 := by
  have he : (s.writeFtWindow e).ftAt s.ftSel = e := (s.ftAt_writeFtWindow e _).trans (if_pos rfl)
  exact ⟨he, congrArg (fun x : FtEntry => bitAt x.present 0) he, congrArg (fun x : FtEntry => x.count.extractLsb' 0 32) he,
    congrArg (fun x : FtEntry => x.count.extractLsb' 32 32) he⟩

/-- Settles O49: each of the three writes stores one entry, and the halves of the count are read and written apart. -/
theorem ftWindowWritesEntry : Obligations.FtWindowWritesEntry := by
  intro s t w hb
  have hpresent := (s.hostWrite_reg w .ftPresent).trans (State.unlessBusy_of_idle hb _)
  have hlo := (s.hostWrite_reg w .ftCntLo).trans (State.unlessBusy_of_idle hb _)
  have hhi := (s.hostWrite_reg w .ftCntHi).trans (State.unlessBusy_of_idle hb _)
  refine ⟨rfl, extractLsb'_halves _, fun ht => ?_, fun ht => ?_, fun ht => ?_, ?_⟩
  · obtain rfl := ht.trans hpresent
    obtain ⟨he, hread, -⟩ := s.readReg_writeFtWindow { s.ftAt s.ftSel with present := w.getLsbD 0 }
    rw [he, hread]
    exact ⟨rfl, rfl, rfl⟩
  · obtain rfl := ht.trans hlo
    obtain ⟨he, -, hread, -⟩ :=
      s.readReg_writeFtWindow { s.ftAt s.ftSel with count := (s.ftAt s.ftSel).count.extractLsb' 32 32 ++ w }
    rw [he, hread]
    exact ⟨BitVec.extractLsb'_append_eq_right, BitVec.extractLsb'_append_eq_left, rfl, BitVec.extractLsb'_append_eq_right⟩
  · obtain rfl := ht.trans hhi
    obtain ⟨he, -, -, hread⟩ :=
      s.readReg_writeFtWindow { s.ftAt s.ftSel with count := w ++ (s.ftAt s.ftSel).count.extractLsb' 0 32 }
    rw [he, hread]
    exact ⟨BitVec.extractLsb'_append_eq_left, BitVec.extractLsb'_append_eq_right, rfl, BitVec.extractLsb'_append_eq_left⟩
  · rintro (ht | ht | ht)
    · exact ht.trans hpresent ▸ s.writeFtWindow_frame _
    · exact ht.trans hlo ▸ s.writeFtWindow_frame _
    · exact ht.trans hhi ▸ s.writeFtWindow_frame _

/-! ### What an access reaches -/

theorem regAt_eq_none_iff (a : Nat) : regAt a = none ↔ a ∉ allRegs.map Reg.offset := by
  simp [regAt, List.find?_eq_none]

/-- A buffer access at address `a` of the region at `base` (R74). -/
theorem bufferAccessOk_eq_false_iff {a base : Nat} (hbase : base % 4 = 0) (hle : base ≤ a) (size : Size) (total : Nat) :
    bufferAccessOk (a - base) size total = false ↔ a % size.bytes ≠ 0 ∨ base + total < a + size.bytes := by
  have hmod : (a - base) % size.bytes = 0 ↔ a % size.bytes = 0 := by
    cases size <;> simp only [Size.bytes] <;> omega
  have hend : ¬a - base + size.bytes ≤ total ↔ base + total < a + size.bytes := by omega
  rw [← Bool.not_eq_true, bufferAccessOk, Bool.and_eq_true, beq_iff_eq, decide_eq_true_iff, not_and_or, hmod, hend]

/-- An access reaches nothing exactly when R73 or R74 calls it erroneous. -/
theorem State.target_eq_none_iff (s : State) (addr : Word) (size : Size) :
    s.target addr size = none ↔ erroneousAccess s addr size := by
  have hregs : addr.toNat ∉ allRegs.map Reg.offset ↔ addr.toNat ∉ [0x00, 0x04, 0x08, 0x0C, 0x10, 0x14, 0x18, 0x1C, 0x20,
      0x24, 0x28, 0x2C, 0x30, 0x40, 0x44, 0x48, 0x4C, 0x50, 0x54, 0x60, 0x64, 0x68, 0x6C] := Iff.rfl
  unfold State.target erroneousAccess ibufBase obufBase
  rw [← hregs]
  dsimp only
  by_cases hreg : addr.toNat < 0x100
  · have h1 : ¬0x100 ≤ addr.toNat := by omega
    have h2 : ¬0x40000000 ≤ addr.toNat := by omega
    have h3 : ¬0x80000000 ≤ addr.toNat := by omega
    simp only [hreg, h1, h2, h3, if_true, true_and, false_and, or_false]
    split
    next hok => simp [Option.map_eq_none_iff, regAt_eq_none_iff, hok]
    next hok => exact iff_of_true rfl ((not_and_or.mp hok).elim .inl fun h => .inr (.inl h))
  have h1 : 0x100 ≤ addr.toNat := by omega
  by_cases hgap : addr.toNat < 0x40000000
  · have h2 : ¬0x40000000 ≤ addr.toNat := by omega
    have h3 : ¬0x80000000 ≤ addr.toNat := by omega
    simp [hreg, hgap, h1, h2, h3]
  have h2 : 0x40000000 ≤ addr.toNat := by omega
  by_cases hibuf : addr.toNat < 0x80000000
  · have h3 : ¬0x80000000 ≤ addr.toNat := by omega
    simp [hreg, hgap, h2, h3, hibuf, bufferAccessOk_eq_false_iff]
  · have h3 : 0x80000000 ≤ addr.toNat := by omega
    simp [hreg, hgap, h2, h3, hibuf, bufferAccessOk_eq_false_iff]

/-- An aligned access inside the input buffer (R74). -/
theorem State.target_ibuf {s : State} (hcfg : s.cfg.legal = true) {i : Nat} {size : Size} (hal : i % size.bytes = 0)
    (hin : i + size.bytes ≤ s.cfg.ibufSize) : s.target (BitVec.ofNat 32 (0x40000000 + i)) size = some (.ibuf i) := by
  obtain ⟨-, hsize, -⟩ := of_decide_eq_true hcfg
  have hpos : 0 < size.bytes := by cases size <;> decide
  have haddr : (BitVec.ofNat 32 (0x40000000 + i)).toNat = 0x40000000 + i := Nat.mod_eq_of_lt (by omega)
  have hok : bufferAccessOk i size s.cfg.ibufSize = true := by simp [bufferAccessOk, hal, hin]
  unfold State.target ibufBase obufBase
  rw [haddr]
  dsimp only
  rw [if_neg (by omega), if_pos (by omega), Nat.add_sub_cancel_left, hok]
  rfl

/-- An aligned access inside the output buffer (R74). -/
theorem State.target_obuf {s : State} (hcfg : s.cfg.legal = true) {i : Nat} {size : Size} (hal : i % size.bytes = 0)
    (hin : i + size.bytes ≤ s.cfg.obufSize) : s.target (BitVec.ofNat 32 (0x80000000 + i)) size = some (.obuf i) := by
  obtain ⟨-, -, -, hsize⟩ := of_decide_eq_true hcfg
  have hpos : 0 < size.bytes := by cases size <;> decide
  have haddr : (BitVec.ofNat 32 (0x80000000 + i)).toNat = 0x80000000 + i := Nat.mod_eq_of_lt (by omega)
  have hok : bufferAccessOk i size s.cfg.obufSize = true := by simp [bufferAccessOk, hal, hin]
  unfold State.target ibufBase obufBase
  rw [haddr]
  dsimp only
  rw [if_neg (by omega), if_neg (by omega), if_pos (by omega), Nat.add_sub_cancel_left, hok]
  rfl

/-! ### Little-endian values -/

theorem leNat_lt (bs : List Byte) : leNat bs < 256 ^ bs.length := by
  induction bs with
  | nil => simp [leNat]
  | cons b bs ih =>
    have hb := b.isLt
    rw [leNat, List.length_cons, pow_succ]
    omega

/-- The bytes of a little-endian value are its bytes. -/
theorem leNat_byte (bs : List Byte) {j : Nat} (hj : j < bs.length) : leNat bs / 256 ^ j % 256 = bs[j].toNat := by
  induction bs generalizing j with
  | nil => exact absurd hj (Nat.not_lt_zero j)
  | cons b bs ih =>
    have hb := b.isLt
    cases j with
    | zero =>
      rw [leNat, pow_zero, Nat.div_one, List.getElem_cons_zero]
      omega
    | succ j =>
      have hdiv : (b.toNat + 256 * leNat bs) / 256 = leNat bs := by omega
      rw [leNat, pow_succ', ← Nat.div_div_eq_div_mul, hdiv, List.getElem_cons_succ]
      exact ih _

theorem loadLe_toNat (f : Nat → Byte) (i : Nat) (size : Size) :
    (loadLe f i size.bytes).toNat = leNat ((List.range size.bytes).map fun j => f (i + j)) ∧
      leNat ((List.range size.bytes).map fun j => f (i + j)) < 256 ^ size.bytes := by
  have hlt := leNat_lt ((List.range size.bytes).map fun j => f (i + j))
  rw [List.length_map, List.length_range] at hlt
  refine ⟨Nat.mod_eq_of_lt (hlt.trans_le ?_), hlt⟩
  cases size <;> decide

/-- A loaded datum has no bits beyond the access width. -/
theorem loadLe_mask (f : Nat → Byte) (i : Nat) (size : Size) :
    loadLe f i size.bytes &&& size.mask = loadLe f i size.bytes := by
  obtain ⟨hval, hlt⟩ := loadLe_toNat f i size
  have hmask : size.mask.toNat = 2 ^ (8 * size.bytes) - 1 := by cases size <;> rfl
  have hpow : (256 : Nat) ^ size.bytes = 2 ^ (8 * size.bytes) := (pow_mul 2 8 _).symm
  refine BitVec.eq_of_toNat_eq ?_
  rw [BitVec.toNat_and, hmask, Nat.and_two_pow_sub_one_eq_mod, Nat.mod_eq_of_lt]
  rwa [hval, ← hpow]

/-- The bytes of a loaded datum are the bytes of the buffer (R74, R79). -/
theorem loadLe_byte (f : Nat → Byte) (i : Nat) (size : Size) {j : Nat} (hj : j < size.bytes) :
    (loadLe f i size.bytes).extractLsb' (8 * j) 8 = f (i + j) := by
  obtain ⟨hval, -⟩ := loadLe_toNat f i size
  have hbyte := leNat_byte ((List.range size.bytes).map fun j => f (i + j)) (j := j) (by simpa using hj)
  have hpow : (256 : Nat) ^ j = 2 ^ (8 * j) := (pow_mul 2 8 _).symm
  refine BitVec.eq_of_toNat_eq ?_
  rw [BitVec.extractLsb'_toNat, hval, Nat.shiftRight_eq_div_pow, ← hpow]
  simpa using hbyte

/-! ### Reads -/

/-- Whether a read of the target is exact while BUSY = 1 (R311). -/
def Target.exactWhileBusy : Target → Bool
  | .reg r => r.exactWhileBusy
  | .ibuf _ => false
  | .obuf _ => false

/-- What a read of the target gives while BUSY = 0 (R74). -/
def Target.value (s : State) (size : Size) : Target → Word
  | .reg r => s.readReg r
  | .ibuf i => loadLe s.ibufAt i size.bytes
  | .obuf i => loadLe s.obufAt i size.bytes

/-- A read that is not erroneous gives the value of its target, or a draw. -/
theorem State.hostRead_of_target {s : State} {addr : Word} {size : Size} {x : Target} (h : s.target addr size = some x) :
    s.hostRead addr size = if s.busy && !x.exactWhileBusy then s.answerDraw size else s.answer (x.value s size) := by
  rw [State.hostRead, h]
  cases x with
  | reg r => rfl
  | ibuf i => simp [Target.exactWhileBusy, Target.value]
  | obuf i => simp [Target.exactWhileBusy, Target.value]

/-- `v` is the value of what an access reaches, wherever a read of that is exact. -/
def State.ReadsExactly (s : State) (addr : Word) (size : Size) (v : Word) : Prop :=
  ∀ x, s.target addr size = some x → (s.busy && !x.exactWhileBusy) = false → v = x.value s size

/-- Everything a read changes: the host's datum, HERR when it is erroneous, and the number of draws when it is a draw. -/
theorem State.hostRead_effect (s : State) (addr : Word) (size : Size) : ∃ (v : Word) (n : Nat),
    (erroneousAccess s addr size → v = 0#32 ∧
      s.hostRead addr size = { s with herr := true, host := { s.host with readData := some v, draws := n } }) ∧
    (¬erroneousAccess s addr size →
      s.hostRead addr size = { s with host := { s.host with readData := some v, draws := n } }) ∧
    (s.busy = false → n = s.host.draws) ∧ s.ReadsExactly addr size v := by
  match htarget : s.target addr size with
  | none =>
    have herr := (s.target_eq_none_iff addr size).mp htarget
    refine ⟨0#32, s.host.draws, fun _ => ⟨rfl, ?_⟩, fun h => absurd herr h, fun _ => rfl, fun x hx => ?_⟩
    · rw [State.hostRead, htarget]
      rfl
    · exact nomatch htarget.symm.trans hx
  | some x =>
    have hok : ¬erroneousAccess s addr size := fun h =>
      nomatch ((s.target_eq_none_iff addr size).mpr h).symm.trans htarget
    have hread := State.hostRead_of_target htarget
    cases hdraw : s.busy && !x.exactWhileBusy with
    | true =>
      rw [hdraw] at hread
      refine ⟨_, _, fun h => absurd h hok, fun _ => hread, fun hb => ?_, fun y hy hval => ?_⟩
      · simp [hb] at hdraw
      · obtain rfl := Option.some.inj (htarget.symm.trans hy)
        exact nomatch hdraw.symm.trans hval
    | false =>
      rw [hdraw] at hread
      refine ⟨_, _, fun h => absurd h hok, fun _ => hread, fun _ => rfl, fun y hy _ => ?_⟩
      obtain rfl := Option.some.inj (htarget.symm.trans hy)
      rfl

/-- Settles O51: a read draws only where it reaches something the running command may change; otherwise it gives the value. -/
theorem readsHaveNoSideEffects : Obligations.ReadsHaveNoSideEffects := by
  intro s addr size
  obtain ⟨v, n, herr, hok, hn, hv⟩ := s.hostRead_effect addr size
  refine ⟨v, n, herr, hok, hn, ?_, ?_, ?_, fun i hb hcfg hal => ⟨?_, ?_⟩⟩
  · rintro rfl rfl
    exact hv _ (s.target_reg .status) (Bool.and_false _)
  · rintro rfl rfl
    exact hv _ (s.target_reg .ctrl) (Bool.and_false _)
  · rintro r hb rfl rfl
    exact hv _ (s.target_reg r) (by simp [hb])
  · rintro hin rfl
    rw [hv _ (State.target_ibuf hcfg hal hin) (by simp [hb])]
    exact ⟨loadLe_mask _ i size, fun j hj => loadLe_byte _ i size hj⟩
  · rintro hin rfl
    rw [hv _ (State.target_obuf hcfg hal hin) (by simp [hb])]
    exact ⟨loadLe_mask _ i size, fun j hj => loadLe_byte _ i size hj⟩

/-! ### Reset -/

/-- Settles O5: the reset state is written out field by field. -/
theorem resetHoldsSpecValues : Obligations.ResetHoldsSpecValues := by
  have hft : ∀ sym, State.reset.ftAt sym = FtEntry.absent := State.ftAt_clearFt State.reset
  refine ⟨rfl, rfl, rfl, rfl, rfl, rfl, rfl, rfl, rfl, rfl, rfl, rfl, rfl, rfl, rfl, rfl, rfl, rfl, rfl, rfl, rfl,
    fun sym => ?_, rfl, rfl, rfl, rfl⟩
  rw [hft sym]
  exact ⟨rfl, rfl⟩

/-- With RST asserted, and after its release, the flags are those of reset. -/
theorem statusWord_after_rst (s : State) (level : Bool) :
    ({ s.perform (.rst true) with rst := level } : State).statusWord = 0#32 :=
  show State.reset.statusWord = 0#32 from rfl

theorem ctrlWord_after_rst (s : State) (level : Bool) :
    ({ s.perform (.rst true) with rst := level } : State).ctrlWord = 0#32 :=
  show State.reset.ctrlWord = 0#32 from rfl

/-- After the release of RST every register reads 0. -/
theorem readReg_after_rst (s : State) (r : Reg) : ((s.perform (.rst true)).perform (.rst false)).readReg r = 0#32 := by
  have hft := State.ftAt_clearFt ((s.perform (.rst true)).perform (.rst false)) 0
  have hnsym := State.nsym_clearFt ((s.perform (.rst true)).perform (.rst false))
  cases r with
  | ftPresent => exact congrArg (fun e : FtEntry => bitAt e.present 0) hft
  | ftCntLo => exact congrArg (fun e : FtEntry => e.count.extractLsb' 0 32) hft
  | ftCntHi => exact congrArg (fun e : FtEntry => e.count.extractLsb' 32 32) hft
  | ftNsym => exact congrArg (BitVec.ofNat 32) hnsym
  | status => exact statusWord_after_rst s false
  | ctrl => exact ctrlWord_after_rst s false
  | _ => rfl

/-- Settles O6: the assertion of RST rebuilds the state from its reset values. -/
theorem rstResetsFromEveryState : Obligations.RstResetsFromEveryState := by
  rintro s _ rfl
  exact ⟨rfl, statusWord_after_rst s true, ctrlWord_after_rst s true, rfl, rfl, rfl, rfl, rfl, rfl, rfl, rfl, rfl,
    State.ftAt_clearFt (s.perform (.rst true)), rfl, rfl, rfl,
    rfl, rfl, rfl, rfl, fun _ _ => rfl, fun _ _ _ => rfl, readReg_after_rst s⟩

/-! ### Who moves -/

theorem State.hostMoves_of_pending {s : State} {op : HostOp} {rest : List HostOp} (hp : s.host.pending = op :: rest)
    (h : s.rst = true ∨ s.seq = .idle ∨ 0 < s.host.turns) : s.hostMoves = true := by
  rcases h with h | h | h <;> simp [State.hostMoves, State.busy, hp, h]

/-- A running command moves when the host has nothing to do, or no turn left. -/
theorem State.not_hostMoves_of_run {s : State} {w : Word} {p : Pos} (hrst : s.rst = false) (hseq : s.seq = .run w p)
    (h : s.host.pending = [] ∨ s.host.turns = 0) : s.hostMoves = false := by
  rcases h with h | h <;> simp [State.hostMoves, State.busy, hrst, hseq, h]

theorem step_of_run {s : State} {w : Word} {p : Pos} {i : Instr} (hrst : s.rst = false) (hseq : s.seq = .run w p)
    (h : s.host.pending = [] ∨ s.host.turns = 0) (hd : decode w = .ok i) : step s = exec i s := by
  rw [step, State.not_hostMoves_of_run hrst hseq h]
  simp [State.blockTurn, hrst, hseq, hd]

/-- Settles O1: who moves is decided by RST, SEQ, the pending operations and the host's turns. -/
theorem stepRunsLatchedCommand : Obligations.StepRunsLatchedCommand := by
  refine ⟨fun s w p i hrst hseq h hd _ => step_of_run hrst hseq h hd, fun s nbits w i hd => ?_, fun s op rest hp h => ?_,
    fun s hp hseq => ?_⟩
  · refine step_of_run rfl rfl (.inr rfl) ?_
    unfold decodeTableWord at hd
    cases hdec : decode (BitVec.ofNat 32 (w % 2 ^ nbits)) with
    | ok j =>
      rw [hdec] at hd
      exact congrArg Except.ok (Option.some.inj hd)
    | error e =>
      rw [hdec] at hd
      exact nomatch hd
  · rw [step, State.hostMoves_of_pending hp h, if_pos rfl, State.hostTurn, hp]
  · have hm : s.hostMoves = false := by simp [State.hostMoves, hp]
    rw [step, hm]
    simp [State.blockTurn, hseq]

end Sys2Proof.Machine
end

section
/-! SUPPORT. A command does the same whatever CTRL holds while it runs (R32, R87): every piece of pseudocode commutes with
replacing CTRL. -/

namespace Sys2Proof.Machine

/-- The state with another value of CTRL. -/
def State.withCtrl (s : State) (c : Ctrl) : State := { s with ctrl := c }

/-- A result with another value of CTRL in the state it ends in; `f` replaces it in the value. -/
def Run.mapCtrl (c : Ctrl) {α : Type} (f : α → α) : Run α → Run α
  | .ok a => .ok (f a)
  | .error e => .error { e with state := e.state.withCtrl c }

/-- `r'` is `r` run with `c` in CTRL. -/
abbrev Twin (c : Ctrl) {α : Type} (f : α → α) (r' r : Run α) : Prop := r' = Run.mapCtrl c f r

section Twin
variable {c : Ctrl} {α β : Type} {f : α → α} {g : β → β}

theorem Twin.bind {r' r : Run α} {k' k : α → Run β} (hr : Twin c f r' r) (hk : ∀ a, Twin c g (k' (f a)) (k a)) :
    Twin c g (r' >>= k') (r >>= k) := by
  subst hr
  cases r with
  | ok a => exact hk a
  | error e => rfl

theorem Twin.ite {p : Prop} [Decidable p] {a' a b' b : Run α} (ha : Twin c f a' a) (hb : Twin c f b' b) :
    Twin c f (if p then a' else b') (if p then a else b) := by
  split
  · exact ha
  · exact hb

end Twin

section Bodies
variable (c : Ctrl)

/-- The pieces that end in a state. -/
abbrev StateTwin (r' r : Run State) : Prop := Twin c (State.withCtrl · c) r' r

theorem inputChecks_ctrl (s : State) : Twin c id (s.withCtrl c).inputChecks s.inputChecks :=
  .ite rfl (.ite rfl rfl)

theorem need_ctrl (k : Nat) (info : Word) (s : State) : Twin c id ((s.withCtrl c).need k info) (s.need k info) :=
  .ite rfl rfl

theorem emit_ctrl (v : Byte) (s : State) : StateTwin c ((s.withCtrl c).emit v) (s.emit v) :=
  .ite rfl rfl

theorem emitMany_ctrl (bs : List Byte) (s : State) : StateTwin c (State.emitMany bs (s.withCtrl c)) (State.emitMany bs s) := by
  induction bs generalizing s with
  | nil => rfl
  | cons b bs ih => exact (emit_ctrl c b s).bind ih

/-! ### CLEAR, COUNT, BUILD, CODEGEN -/

theorem countLoop_ctrl (k : Nat) (s : State) : countLoop k (s.withCtrl c) = (countLoop k s).withCtrl c := by
  induction k generalizing s with
  | zero => rfl
  | succ k ih => exact ih (countOne s)

theorem countBody_ctrl (s : State) : StateTwin c (countBody (s.withCtrl c)) (countBody s) :=
  (inputChecks_ctrl c s).bind fun _ => congrArg Except.ok (countLoop_ctrl c _ s.clearFt)

theorem addLeaves_ctrl (s : State) (syms : List Byte) (k : Nat) (a : Nodes) :
    addLeaves (s.withCtrl c) syms k a = addLeaves s syms k a := by
  induction syms generalizing k a with
  | nil => rfl
  | cons sym rest ih =>
    rw [addLeaves, addLeaves, ih, ih]
    rfl

theorem buildTree_ctrl (s : State) (n : Nat) : buildTree (s.withCtrl c) n = buildTree s n := by
  rw [buildTree, buildTree, addLeaves_ctrl]
  rfl

theorem buildBody_ctrl (s : State) : StateTwin c (buildBody (s.withCtrl c)) (buildBody s) :=
  .ite rfl (.ite rfl (congrArg (fun x : List NodeIx × Tree =>
    (Except.ok { s.invalidateTree.withCtrl c with tree := x.2, mergeQ := x.1, treeValid := true } : Run State))
    (buildTree_ctrl c s.invalidateTree s.nsym)))

/-! ### WRHDR and RDHDR -/

theorem writeEntries_ctrl (syms : List Byte) (s : State) :
    StateTwin c (writeEntries syms (s.withCtrl c)) (writeEntries syms s) := by
  induction syms generalizing s with
  | nil => rfl
  | cons sym rest ih =>
    rw [writeEntries, writeEntries]
    exact .ite ((emit_ctrl c sym s).bind fun t => (emitMany_ctrl c _ t).bind ih) (ih s)

theorem wrhdrBody_ctrl (s : State) : StateTwin c (wrhdrBody (s.withCtrl c)) (wrhdrBody s) :=
  (emitMany_ctrl c magic s).bind fun t => (emitMany_ctrl c _ t).bind fun u => writeEntries_ctrl c allSymbols u

theorem readEntries_ctrl (k i : Nat) (s : State) : StateTwin c (readEntries k i (s.withCtrl c)) (readEntries k i s) := by
  induction k generalizing i s with
  | zero => rfl
  | succ k ih =>
    rw [readEntries, readEntries]
    exact (need_ctrl c 9 _ s).bind fun _ => .ite rfl (ih (i + 1) (s.fetch.2.readLe8.2.putFt s.fetch.1
      { present := true, count := s.fetch.2.readLe8.1 }))

theorem rdhdrBody_ctrl (s : State) : StateTwin c (rdhdrBody (s.withCtrl c)) (rdhdrBody s) :=
  (inputChecks_ctrl c s).bind fun _ => (need_ctrl c 3 _ s.clearFt).bind fun _ => .ite rfl
    ((need_ctrl c 8 _ s.clearFt.fetch.2.fetch.2.fetch.2).bind fun _ => .ite rfl (.ite rfl
      (readEntries_ctrl c _ 0 s.clearFt.fetch.2.fetch.2.fetch.2.readLe8.2)))

/-! ### ENCODE -/

theorem pushBit_ctrl (b : Bool) (s : State) : StateTwin c (pushBit b (s.withCtrl c)) (pushBit b s) :=
  .ite ((emit_ctrl c _ { s with acc := writeBit s.acc (7 - s.nacc.val) b, nacc := s.nacc + 1 }).bind fun _ => rfl) rfl

theorem pushBits_ctrl (bs : List Bool) (s : State) : StateTwin c (pushBits bs (s.withCtrl c)) (pushBits bs s) := by
  induction bs generalizing s with
  | nil => rfl
  | cons b bs ih => exact (pushBit_ctrl c b s).bind ih

theorem encodeOne_ctrl (s : State) : StateTwin c (encodeOne (s.withCtrl c)) (encodeOne s) :=
  .ite rfl (pushBits_ctrl c _ s.fetch.2)

theorem encodeLoop_ctrl (k : Nat) (s : State) : StateTwin c (encodeLoop k (s.withCtrl c)) (encodeLoop k s) := by
  induction k generalizing s with
  | zero => rfl
  | succ k ih => exact (encodeOne_ctrl c s).bind ih

theorem flush_ctrl (z : Bool) (s : State) : StateTwin c (flush z (s.withCtrl c)) (flush z s) :=
  .ite (Twin.bind (f := (State.withCtrl · c)) (.ite (emit_ctrl c s.acc s) rfl) fun _ => rfl)
    (Twin.bind (f := (State.withCtrl · c)) (.ite (emit_ctrl c s.acc s) rfl) fun _ => rfl)

theorem encodeBody_ctrl (z : Bool) (s : State) : StateTwin c (encodeBody z (s.withCtrl c)) (encodeBody z s) :=
  (inputChecks_ctrl c s).bind fun _ =>
    .ite rfl ((encodeLoop_ctrl c _ { s with acc := 0, nacc := 0 }).bind fun t => flush_ctrl c z t)

/-! ### DECODE -/

theorem emitRoot_ctrl (sym : Byte) (k : Nat) (s : State) : StateTwin c (emitRoot sym k (s.withCtrl c)) (emitRoot sym k s) := by
  induction k generalizing s with
  | zero => rfl
  | succ k ih => exact (emit_ctrl c sym s).bind fun t => ih { t with walk := { t.walk with emitted := t.walk.emitted + 1 } }

theorem walkBit_ctrl (s : State) : Twin c (Prod.map id (State.withCtrl · c)) (walkBit (s.withCtrl c)) (walkBit s) :=
  .ite (Twin.bind (emit_ctrl c _ { s with walk := { s.walk with cur := _ } }) fun _ => rfl) rfl

theorem walkByte_ctrl (pos : Nat) (s : State) : StateTwin c (walkByte pos (s.withCtrl c)) (walkByte pos s) := by
  induction pos generalizing s with
  | zero => exact (walkBit_ctrl c { s with walk := { s.walk with bitpos := 0 } }).bind fun _ => rfl
  | succ pos ih =>
    exact (walkBit_ctrl c { s with walk := { s.walk with bitpos := Fin.ofNat 8 (pos + 1) } }).bind fun p => .ite rfl (ih p.2)

theorem decodeLoop_ctrl (k : Nat) (s : State) : StateTwin c (decodeLoop k (s.withCtrl c)) (decodeLoop k s) := by
  induction k generalizing s with
  | zero => exact .ite rfl rfl
  | succ k ih =>
    exact .ite ((walkByte_ctrl c 7 { s.fetch.2 with walk := { s.fetch.2.walk with byte := s.fetch.1, bitpos := 7 } }).bind ih)
      rfl

theorem decodeBody_ctrl (s : State) : StateTwin c (decodeBody (s.withCtrl c)) (decodeBody s) := by
  refine (inputChecks_ctrl c s).bind fun _ => .ite rfl (.ite (emitRoot_ctrl c _ _
    { s with walk := { s.walk with total := BitVec.ofNat 64 s.ftTotal, emitted := 0 } }) ?_)
  exact decodeLoop_ctrl c _
    { s with walk := { s.walk with total := BitVec.ofNat 64 s.ftTotal, emitted := 0, cur := s.tree.root } }

theorem decompressBody_ctrl (s : State) : StateTwin c (decompressBody (s.withCtrl c)) (decompressBody s) :=
  (rdhdrBody_ctrl c s.rewind).bind fun t => (buildBody_ctrl c t).bind fun u => decodeBody_ctrl c u

/-! ### Every command -/

/-- A result that may be stuck, with another value of CTRL in the state it ends in. -/
def Stop.mapCtrl : Except Stop State → Except Stop State
  | .ok s => .ok (s.withCtrl c)
  | .error (.raised e) => .error (.raised { e with state := e.state.withCtrl c })
  | .error (.stuck f) => .error (.stuck f)

theorem liftRun_ctrl {r' r : Run State} (h : StateTwin c r' r) : liftRun r' = Stop.mapCtrl c (liftRun r) := by
  subst h
  cases r <;> rfl

theorem Stop.mapCtrl_bind {r' r : Except Stop State} {k : State → Except Stop State} (hr : r' = Stop.mapCtrl c r)
    (hk : ∀ t, k (t.withCtrl c) = Stop.mapCtrl c (k t)) : (r' >>= k) = Stop.mapCtrl c (r >>= k) := by
  subst hr
  match r with
  | .ok t => exact hk t
  | .error (.raised _) => rfl
  | .error (.stuck _) => rfl

theorem codegenBody_ctrl (s : State) : codegenBody (s.withCtrl c) = Stop.mapCtrl c (codegenBody s) := by
  cases hv : s.treeValid with
  | false => rw [codegenBody_of_invalid hv, codegenBody_of_invalid (s := s.withCtrl c) hv]; rfl
  | true =>
    cases hc : s.arenaCodes with
    | none => rw [codegenBody_of_none hv hc, codegenBody_of_none (s := s.withCtrl c) hv hc]; rfl
    | some codes => rw [codegenBody_of_some hv hc, codegenBody_of_some (s := s.withCtrl c) hv hc]; rfl

theorem compressBody_ctrl (z : Bool) (s : State) : compressBody z (s.withCtrl c) = Stop.mapCtrl c (compressBody z s) := by
  refine Stop.mapCtrl_bind c (liftRun_ctrl c (countBody_ctrl c s.rewind)) fun s1 => ?_
  refine Stop.mapCtrl_bind c (liftRun_ctrl c (buildBody_ctrl c s1)) fun s2 => ?_
  refine Stop.mapCtrl_bind c (codegenBody_ctrl c s2) fun s3 => ?_
  refine Stop.mapCtrl_bind c (liftRun_ctrl c (wrhdrBody_ctrl c s3)) fun s4 => ?_
  exact liftRun_ctrl c (encodeBody_ctrl c z { s4 with inPtr := 0 })

theorem commandBody_ctrl (i : Instr) (s : State) : commandBody i (s.withCtrl c) = Stop.mapCtrl c (commandBody i s) := by
  cases i with
  | nop => rfl
  | clear => rfl
  | count => exact liftRun_ctrl c (countBody_ctrl c s)
  | build => exact liftRun_ctrl c (buildBody_ctrl c s)
  | codegen => exact codegenBody_ctrl c s
  | wrhdr => exact liftRun_ctrl c (wrhdrBody_ctrl c s)
  | encode z => exact liftRun_ctrl c (encodeBody_ctrl c z s)
  | rdhdr => exact liftRun_ctrl c (rdhdrBody_ctrl c s)
  | decode => exact liftRun_ctrl c (decodeBody_ctrl c s)
  | compress z => exact compressBody_ctrl c z s
  | decompress => exact liftRun_ctrl c (decompressBody_ctrl c s)

/-- A command ends in the same state, but for CTRL, whatever CTRL holds while it runs. -/
theorem exec_withCtrl {i : Instr} {s t : State} (h : exec i s = .next t) : exec i (s.withCtrl c) = .next (t.withCtrl c) := by
  rw [exec_eq_settleStop] at h ⊢
  rw [commandBody_ctrl]
  match hbody : commandBody i s with
  | .ok u =>
    rw [hbody] at h
    obtain rfl := Host.Outcome.next.inj h
    rfl
  | .error (.raised e) =>
    rw [hbody] at h
    obtain rfl := Host.Outcome.next.inj h
    rfl
  | .error (.stuck f) =>
    rw [hbody] at h
    exact nomatch h

end Bodies

/-! ### Host writes while a command runs -/

theorem State.writeReg_of_busy {s : State} (hb : s.busy = true) (w : Word) (r : Reg) :
    (s.writeReg w r).inEnSample = s.inEnSample ∧ (s.writeReg w r).seq = s.seq := by
  have hrefused : ∀ s', s.unlessBusy s' = s.hostError := fun _ => if_pos hb
  cases r with
  | cmd | inLen | inPtr | outPtr | ftSel | ftPresent | ftCntLo | ftCntHi | nodeSel | codeSel | codeWsel =>
    rw [State.writeReg, hrefused]
    exact ⟨rfl, rfl⟩
  | status | ctrl => exact ⟨rfl, rfl⟩
  | err | errInfo | ftNsym | nodeInfo | nodeLinks | nodeWLo | nodeWHi | treeInfo | codeInfo | codeWord => exact ⟨rfl, rfl⟩

/-- A host write while BUSY = 1 changes neither the running command nor its sample of IN_EN (R87, R310). -/
theorem State.hostWrite_of_busy {s : State} (hb : s.busy = true) (addr : Word) (size : Size) (w : Word) :
    (s.hostWrite addr size w).inEnSample = s.inEnSample ∧ (s.hostWrite addr size w).seq = s.seq := by
  have hrefused : ∀ s', s.unlessBusy s' = s.hostError := fun _ => if_pos hb
  unfold State.hostWrite
  split
  · exact ⟨rfl, rfl⟩
  · exact State.writeReg_of_busy hb w _
  · rw [hrefused]
    exact ⟨rfl, rfl⟩
  · rw [hrefused]
    exact ⟨rfl, rfl⟩

/-- Settles O59: the acceptance takes the sample, and no piece of pseudocode reads CTRL. -/
theorem commandTakesInEnAtAcceptance : Obligations.CommandTakesInEnAtAcceptance := by
  refine ⟨fun s w i hb hd => ?_, fun s addr size w hb => State.hostWrite_of_busy hb addr size w,
    fun i s t c h => exec_withCtrl c h⟩
  have hwrite : s.hostWrite 0x00000000#32 .word w = s.accept w :=
    (s.hostWrite_reg w .cmd).trans (State.unlessBusy_of_idle hb _)
  obtain ⟨_, _, he⟩ | ⟨_, hne, _⟩ := s.accept_cases w
  · rw [hwrite, he]
    rfl
  · exact nomatch hd.symm.trans hne

end Sys2Proof.Machine
end

section
/-! SUPPORT. Host accesses that are erroneous, and host stores to the buffers with their read-back. -/

namespace Sys2Proof.Machine

/-! ### Erroneous accesses -/

theorem State.hostWrite_of_erroneous {s : State} {addr : Word} {size : Size} (h : erroneousAccess s addr size) (w : Word) :
    s.hostWrite addr size w = s.hostError := by
  rw [State.hostWrite, (s.target_eq_none_iff addr size).mpr h]

theorem State.hostRead_of_erroneous {s : State} {addr : Word} {size : Size} (h : erroneousAccess s addr size) :
    s.hostRead addr size = s.hostError.answer 0 := by
  rw [State.hostRead, (s.target_eq_none_iff addr size).mpr h]

/-- Settles O52: an erroneous access reaches nothing. -/
theorem erroneousAccessesSetHerr : Obligations.ErroneousAccessesSetHerr :=
  fun _ _ _ h => ⟨fun w => State.hostWrite_of_erroneous h w, State.hostRead_of_erroneous h⟩

/-! ### Runs of writes -/

/-- Writing `bs` and then `cs` after them is writing them together. -/
theorem Memory.putMany_append (bs cs : List Byte) (m : Memory) (i : Nat) :
    m.putMany i (bs ++ cs) = (m.putMany i bs).putMany (i + bs.length) cs := by
  induction bs generalizing m i with
  | nil => rfl
  | cons b bs ih =>
    rw [List.cons_append, Memory.putMany, Memory.putMany, ih, List.length_cons]
    congr 1
    omega

/-- The bytes a host write stores, lowest first (R74). -/
def storeBytes (n : Nat) (w : Word) : List Byte := (List.range n).map fun j => w.extractLsb' (8 * j) 8

@[simp] theorem storeBytes_length (n : Nat) (w : Word) : (storeBytes n w).length = n := by
  simp [storeBytes]

/-- A host store is a run of writes. -/
theorem storeLe_eq_putMany (m : Memory) (i n : Nat) (w : Word) : storeLe m i n w = m.putMany i (storeBytes n w) := by
  induction n with
  | zero => rfl
  | succ n ih =>
    have hsnoc : storeBytes (n + 1) w = storeBytes n w ++ [w.extractLsb' (8 * n) 8] := by
      simp [storeBytes, List.range_succ]
    rw [storeLe, List.range_succ, List.foldl_concat, ← storeLe, ih, hsnoc, Memory.putMany_append, storeBytes_length]
    rfl

/-- A stored byte reads back. -/
theorem get?_storeLe_inside (m : Memory) (i : Nat) {j n : Nat} (w : Word) (h : j < n) :
    (storeLe m i n w).get? (i + j) = some (w.extractLsb' (8 * j) 8) := by
  rw [storeLe_eq_putMany, Memory.get?_putMany_inside _ _ _ _ (by simpa using h)]
  simp [storeBytes]

/-- A store leaves every other byte alone. -/
theorem get?_storeLe_outside (m : Memory) {i k n : Nat} (w : Word) (h : k < i ∨ i + n ≤ k) :
    (storeLe m i n w).get? k = m.get? k := by
  rw [storeLe_eq_putMany]
  exact Memory.get?_putMany_outside _ _ _ _ (by simpa using h)

/-! ### Reading back -/

theorem Size.mask_getLsbD (size : Size) {k : Nat} (h : k < 32) :
    size.mask.getLsbD k = decide (k < 8 * size.bytes) := by
  cases size <;> revert k <;> decide

/-- A datum without bits beyond the access width is known by its bytes. -/
theorem eq_and_mask_of_bytes {size : Size} {v w : Word} (hv : v &&& size.mask = v)
    (h : ∀ j < size.bytes, v.extractLsb' (8 * j) 8 = w.extractLsb' (8 * j) 8) : v = w &&& size.mask := by
  refine BitVec.eq_of_getLsbD_eq fun k hk => ?_
  rw [← hv, BitVec.getLsbD_and, BitVec.getLsbD_and, size.mask_getLsbD hk]
  by_cases hin : k < 8 * size.bytes
  · have hbit := congrArg (fun b : Byte => b.getLsbD (k % 8)) (h (k / 8) (by omega))
    have hmod : k % 8 < 8 := Nat.mod_lt _ (by decide)
    have hsplit : 8 * (k / 8) + k % 8 = k := Nat.div_add_mod k 8
    simp only [BitVec.getLsbD_extractLsb', hmod, decide_true, Bool.true_and, hsplit] at hbit
    rw [hbit]
  · simp [hin]

/-- Loading what was stored gives the datum, cut to the access width (R74, R79). -/
theorem loadLe_of_bytes {f : Nat → Byte} {i : Nat} {size : Size} {w : Word}
    (h : ∀ j < size.bytes, f (i + j) = w.extractLsb' (8 * j) 8) : loadLe f i size.bytes = w &&& size.mask :=
  eq_and_mask_of_bytes (loadLe_mask f i size) fun j hj => (loadLe_byte f i size hj).trans (h j hj)

/-- A read while BUSY = 0 of bytes that are those of `w` gives `w`, cut to the access width. -/
theorem State.hostRead_of_bytes {s : State} (hb : s.busy = false) {addr : Word} {size : Size} {x : Target} {f : Nat → Byte}
    {i : Nat} {w : Word} (h : s.target addr size = some x) (hx : x.value s size = loadLe f i size.bytes)
    (hbytes : ∀ j < size.bytes, f (i + j) = w.extractLsb' (8 * j) 8) :
    (s.hostRead addr size).host.readData = some (w &&& size.mask) := by
  rw [State.hostRead_of_target h, hb, hx, loadLe_of_bytes hbytes]
  rfl

/-- Settles O53: a store is a run of writes, and loading its bytes gives the datum back. -/
theorem bufferAccessesReadBack : Obligations.BufferAccessesReadBack := by
  intro s t size i w hcfg hb hal
  constructor
  · intro hin ht
    have htarget := State.target_ibuf hcfg hal hin
    rw [State.hostWrite, htarget] at ht
    replace ht := ht.trans (State.unlessBusy_of_idle hb _)
    have hbytes : ∀ j < size.bytes, t.ibufAt (i + j) = w.extractLsb' (8 * j) 8 := fun j hj => by
      rw [ht, State.ibufAt, get?_storeLe_inside _ _ _ hj, Option.getD_some]
    refine ⟨hbytes, fun k hk => ?_, fun k => by rw [ht]; rfl, State.hostRead_of_bytes (by rwa [ht]) (by rwa [ht]) rfl hbytes⟩
    rw [ht, State.ibufAt, get?_storeLe_outside _ _ hk, State.ibufAt]
  · intro hin ht
    have htarget := State.target_obuf hcfg hal hin
    rw [State.hostWrite, htarget] at ht
    replace ht := ht.trans (State.unlessBusy_of_idle hb _)
    have hbytes : ∀ j < size.bytes, t.obufAt (i + j) = w.extractLsb' (8 * j) 8 := fun j hj => by
      rw [ht, State.obufAt, get?_storeLe_inside _ _ _ hj, Option.getD_some]
    refine ⟨hbytes, fun k hk => ?_, fun k => by rw [ht]; rfl, State.hostRead_of_bytes (by rwa [ht]) (by rwa [ht]) rfl hbytes⟩
    rw [ht, State.obufAt, get?_storeLe_outside _ _ hk, State.obufAt]

end Sys2Proof.Machine
end

section
/-! SUPPORT. The output stream of a command as the bytes it has appended (R28, R77), and WRHDR as the emission of the header. -/

namespace Sys2Proof.Machine

/-! ### Appended bytes -/

/-- From `s` to `t` the bytes `bs`, for which OBUF had room, have been appended to the output stream (R77). -/
structure Appended (s : State) (bs : List Byte) (t : State) : Prop where
  cfg : t.cfg = s.cfg
  epoch : t.epoch = s.epoch
  obuf : t.obuf = (s.wrote bs).obuf
  outPtr : t.outPtr = (s.wrote bs).outPtr
  fits : bs = [] ∨ s.outPtr.toNat + bs.length ≤ s.cfg.obufSize

theorem Appended.of_wrote {s : State} {bs : List Byte} (h : bs = [] ∨ s.outPtr.toNat + bs.length ≤ s.cfg.obufSize) :
    Appended s bs (s.wrote bs) :=
  ⟨rfl, rfl, rfl, rfl, h⟩

theorem Appended.nil (s : State) : Appended s [] s := by
  simpa using Appended.of_wrote (s := s) (.inl rfl)

theorem State.obufSize_le {s : State} (hcfg : s.cfg.legal = true) : s.cfg.obufSize ≤ 2 ^ 30 := by
  obtain ⟨-, -, -, hsize⟩ := of_decide_eq_true hcfg
  exact hsize

section Appended
variable {s t : State} {bs : List Byte}

/-- A change outside the output stream. -/
theorem Appended.same {u : State} (h : Appended s bs t) (cfg : u.cfg = t.cfg := by rfl) (epoch : u.epoch = t.epoch := by rfl)
    (obuf : u.obuf = t.obuf := by rfl) (outPtr : u.outPtr = t.outPtr := by rfl) : Appended s bs u :=
  ⟨cfg.trans h.cfg, epoch.trans h.epoch, obuf.trans h.obuf, outPtr.trans h.outPtr, h.fits⟩

theorem Appended.raise (h : Appended s bs t) (c : Cause) (info : Word) : Appended s bs (t.raise c info) :=
  h.same

theorem Appended.finish (h : Appended s bs t) : Appended s bs t.finish :=
  h.same

theorem Appended.outPtr_toNat (h : Appended s bs t) (hcfg : s.cfg.legal = true) :
    t.outPtr.toNat = s.outPtr.toNat + bs.length := by
  have hsize := State.obufSize_le hcfg
  rw [h.outPtr]
  rcases h.fits with rfl | hfits
  · simp
  · exact s.wrote_outPtr_toNat bs (by omega)

theorem Appended.obufAt_eq (h : Appended s bs t) (k : Nat) : t.obufAt k = (s.wrote bs).obufAt k := by
  rw [State.obufAt, h.obuf, h.epoch]
  rfl

/-- The appended bytes stand in OBUF from the old OUT_PTR on. -/
theorem Appended.obufBytes (h : Appended s bs t) : t.obufBytes s.outPtr.toNat bs.length = bs := by
  refine List.ext_getElem (by simp [State.obufBytes]) fun j hj hj' => ?_
  simp only [State.obufBytes, List.getElem_map, List.getElem_range]
  rw [h.obufAt_eq, s.obufAt_wrote_inside bs j hj']

/-- Every other byte of OBUF is as it was. -/
theorem Appended.outside (h : Appended s bs t) (k : Nat) (hk : k < s.outPtr.toNat ∨ s.outPtr.toNat + bs.length ≤ k) :
    t.obufAt k = s.obufAt k := by
  rw [h.obufAt_eq, s.obufAt_wrote_outside bs k hk]

/-- Appending one byte more, for which there is room. -/
theorem Appended.wrote (h : Appended s bs t) (hcfg : s.cfg.legal = true) (room : t.outPtr.toNat < t.cfg.obufSize)
    (v : Byte) : Appended s (bs ++ [v]) (t.wrote [v]) := by
  have hptr := h.outPtr_toNat hcfg
  rw [h.cfg] at room
  refine ⟨h.cfg, h.epoch, ?_, ?_, .inr ?_⟩
  · show t.obuf.putMany t.outPtr.toNat [v] = s.obuf.putMany s.outPtr.toNat (bs ++ [v])
    rw [hptr, h.obuf, Memory.putMany_append]
    rfl
  · rw [State.wrote_outPtr, h.outPtr, State.wrote_outPtr, State.wrote_outPtr, List.length_append, BitVec.ofNat_add,
      BitVec.add_assoc]
  · rw [List.length_append, List.length_singleton]
    omega

/-- Everything `emit` does after the bytes `bs`: it appends one more, or finds OBUF full (R77). -/
theorem Appended.emit (h : Appended s bs t) (hcfg : s.cfg.legal = true) (v : Byte) :
    (t.emit v = .ok (t.wrote [v]) ∧ Appended s (bs ++ [v]) (t.wrote [v])) ∨
      (t.emit v = .error ⟨.ioOutOvf, t.outPtr, t⟩ ∧ bs.length = s.cfg.obufSize - s.outPtr.toNat) := by
  have hptr := h.outPtr_toNat hcfg
  rcases t.emit_cases v with ⟨room, he⟩ | ⟨hfull, he⟩
  · exact .inl ⟨he, h.wrote hcfg room v⟩
  · refine .inr ⟨he, ?_⟩
    rw [h.cfg] at hfull
    rcases h.fits with rfl | hfits
    · rw [List.length_nil] at hptr ⊢
      omega
    · omega

end Appended

/-! ### Aborts -/

/-- A command aborted by the error its body ends in (R265). -/
theorem aborted_of_error {s : State} {r : Run State} (hr : RunReaches id s r) {e : Raise} (he : r = .error e) :
    aborted s (settle r) e.cause e.info := by
  rw [he] at hr ⊢
  have hdone : e.state.done = s.done := Reaches.keeps (P := fun u => u.done = s.done)
    (fun hmove hu => by cases hmove <;> exact hu) hr rfl
  exact ⟨rfl, hdone, rfl, rfl, rfl⟩

/-! ### WRHDR -/

theorem State.emitMany_append (bs cs : List Byte) (s : State) :
    State.emitMany (bs ++ cs) s = State.emitMany bs s >>= State.emitMany cs := by
  induction bs generalizing s with
  | nil => rfl
  | cons b bs ih =>
    rw [List.cons_append, State.emitMany, State.emitMany, bind_assoc]
    exact congrArg _ (funext ih)

/-- A sequence of emissions, and then a piece that depends on the state only through the frequency table. -/
theorem State.emitMany_bind_congr {bs : List Byte} {s : State} {f g : State → Run State}
    (h : ∀ t : State, t.ft = s.ft → f t = g t) : State.emitMany bs s >>= f = State.emitMany bs s >>= g := by
  have hw := emitMany_writes bs s
  cases he : State.emitMany bs s with
  | error e => rfl
  | ok t =>
    rw [he] at hw
    exact h t (Writes.frame State.ft (fun p hp _ _ hmove => hmove.ft_eq (by rintro rfl; simp at hp)) hw)

/-- The bytes of a symbol's entry in a header (R123). -/
def State.entryBytes (s : State) (sym : Byte) : List Byte := sym :: leBytes8 (s.ftAt sym).count

theorem State.ftAt_congr {s t : State} (h : t.ft = s.ft) (sym : Byte) : t.ftAt sym = s.ftAt sym := by
  simp only [State.ftAt, h]

/-- WRHDR's loop emits the entries of the present symbols. -/
theorem writeEntries_eq_emitMany (syms : List Byte) {s t : State} (h : t.ft = s.ft) :
    writeEntries syms t = State.emitMany ((s.presentIn syms).flatMap s.entryBytes) t := by
  induction syms generalizing t with
  | nil => rfl
  | cons sym rest ih =>
    unfold writeEntries
    rw [State.ftAt_congr h]
    by_cases hp : (s.ftAt sym).present = true
    · rw [State.presentIn_cons_pos rest hp, List.flatMap_cons, State.entryBytes, List.cons_append, State.emitMany, if_pos hp]
      rcases t.emit_cases sym with ⟨-, he⟩ | ⟨-, he⟩
      · rw [he]
        show (t.wrote [sym]).writeLe8 ((t.wrote [sym]).ftAt sym).count >>= writeEntries rest =
          State.emitMany (leBytes8 (s.ftAt sym).count ++ (s.presentIn rest).flatMap s.entryBytes) (t.wrote [sym])
        rw [State.ftAt_congr (t := t.wrote [sym]) h, State.emitMany_append]
        exact State.emitMany_bind_congr fun u hu => ih (hu.trans h)
      · rw [he]
        rfl
    · rw [State.presentIn_cons_neg rest hp, if_neg hp]
      exact ih h

/-- WRHDR emits the header of the table (R160). -/
theorem wrhdrBody_eq_emitMany (s : State) : wrhdrBody s = State.emitMany s.headerBytes s := by
  rw [State.headerBytes, List.append_assoc, State.emitMany_append, wrhdrBody]
  refine State.emitMany_bind_congr fun t ht => ?_
  have hn : t.nsym = s.nsym := by rw [State.nsym, ht, State.nsym]
  rw [State.emitMany_append, hn]
  exact State.emitMany_bind_congr fun u hu => writeEntries_eq_emitMany allSymbols (hu.trans ht)

theorem State.headerBytes_length (s : State) : s.headerBytes.length = s.headerLength := by
  have hentry : ∀ sym, (s.entryBytes sym).length = 9 := fun sym => by
    rw [State.entryBytes, List.length_cons, leBytes8_length]
  have hentries : (s.presentSyms.flatMap s.entryBytes).length = 9 * s.nsym := by
    simp [List.length_flatMap, hentry, s.nsym_eq, Nat.mul_comm]
  rw [State.headerBytes, List.length_append, List.length_append, leBytes8_length, State.headerLength]
  exact congrArg (3 + 8 + ·) hentries

theorem sameTables_of_exec {i : Instr} {s t : State} (h : exec i s = .next t) (ht : .table ∉ commandParts i)
    (hb : .tree ∉ commandParts i) (hc : .codes ∉ commandParts i) : sameTables s t := by
  have hs := exec_sameEngine h
  exact ⟨hs.ft ht, hs.treeValid ht hb, hs.codeValid ht hb hc, fun _ => (hs.tree hb).1, fun _ => hs.codes hc⟩

/-- Settles O30: the header is emitted whole. -/
theorem wrhdrWritesHeader : Obligations.WrhdrWritesHeader := by
  intro s hcfg hroom
  rw [← s.headerBytes_length] at hroom ⊢
  have happ := (Appended.of_wrote (.inr hroom)).finish
  have hexec : exec .wrhdr s = .next (s.wrote s.headerBytes).finish := by
    rw [exec, execWrhdr, wrhdrBody_eq_emitMany, State.emitMany_ok _ _ hroom (State.obufSize_le hcfg), settle_ok]
  exact ⟨_, hexec, ⟨rfl, rfl, rfl, rfl, rfl⟩, happ.obufBytes, happ.outPtr_toNat hcfg, happ.outside,
    sameTables_of_exec hexec (by simp [commandParts]) (by simp [commandParts]) (by simp [commandParts]),
    (commandsLeaveHostSide _ s _ hexec).1, rfl⟩

/-- Settles O31: the header is emitted up to the end of OBUF. -/
theorem wrhdrOverflowKeepsPrefix : Obligations.WrhdrOverflowKeepsPrefix := by
  rintro s k hcfg hroom rfl
  rw [← s.headerBytes_length] at hroom
  have hne : s.headerBytes ≠ [] := by simp [State.headerBytes, magic]
  obtain ⟨bs, hbs⟩ : ∃ bs, bs = s.headerBytes.take (s.cfg.obufSize - s.outPtr.toNat) := ⟨_, rfl⟩
  have hexec : exec .wrhdr s = .next ((s.wrote bs).raise .ioOutOvf (s.wrote bs).outPtr) := by
    rw [hbs, exec, execWrhdr, wrhdrBody_eq_emitMany, State.emitMany_full _ _ hroom hne (State.obufSize_le hcfg), settle_error]
  have hlen : bs.length = s.cfg.obufSize - s.outPtr.toNat := by
    rw [hbs, List.length_take]
    omega
  have happ := (Appended.of_wrote (s := s) (bs := bs)
    (by rw [← List.length_eq_zero_iff, hlen]; omega)).raise .ioOutOvf (s.wrote bs).outPtr
  rw [← hbs, ← hlen]
  exact ⟨_, hexec, ⟨rfl, rfl, rfl, rfl, rfl⟩, happ.outPtr_toNat hcfg, happ.obufBytes, happ.outside,
    sameTables_of_exec hexec (by simp [commandParts]) (by simp [commandParts]) (by simp [commandParts])⟩

end Sys2Proof.Machine
end

section
/-! SUPPORT. RDHDR up to the entries: the fixed part of a header and the checks on it (R163). -/

namespace Sys2Proof.Machine

/-! ### Reading inside the input -/

/-- Reads that stay inside the input take the next bytes of IBUF. -/
theorem State.fetchMany_inside {s : State} {k : Nat} (h : s.inPtr.toNat + k ≤ s.inLen.toNat) :
    State.fetchMany k s = (s.ibufBytes s.inPtr.toNat k, s.readPast k) := by
  have hptr : ∀ j < k, (s.inPtr + BitVec.ofNat 32 j).toNat = s.inPtr.toNat + j := fun j hj =>
    State.readPast_toNat (by omega)
  rw [State.fetchMany_eq, State.ibufBytes]
  exact congrArg (·, _) (List.map_congr_left fun j hj => by rw [hptr j (List.mem_range.mp hj)])

theorem State.readLe8_inside {s : State} (h : s.inPtr.toNat + 8 ≤ s.inLen.toNat) :
    s.readLe8 = (BitVec.ofNat 64 (leNat (s.ibufBytes s.inPtr.toNat 8)), s.readPast 8) := by
  rw [State.readLe8, State.fetchMany_inside h]

/-- Reading all that is left ends at the end of the input. -/
theorem State.readPast_inputLeft {s : State} (h : s.inPtr.toNat ≤ s.inLen.toNat) :
    (s.readPast s.inputLeft).inPtr = s.inLen := by
  have hleft : s.inPtr.toNat + s.inputLeft = s.inLen.toNat := Nat.add_sub_cancel' h
  exact BitVec.eq_of_toNat_eq (by rw [State.readPast_toNat hleft.le, hleft])

/-! ### The fixed part of the header -/

/-- The count field of a header at IN_PTR (R122). -/
def State.symbolCount (s : State) : Nat := leNat (s.ibufBytes (s.inPtr.toNat + 3) 8)

theorem State.symbolCount_lt (s : State) : s.symbolCount < 2 ^ 64 := by
  have h := leNat_lt (s.ibufBytes (s.inPtr.toNat + 3) 8)
  simpa [State.symbolCount, State.ibufBytes] using h

theorem State.need_ok {s : State} {k : Nat} (h : s.inPtr.toNat + k ≤ s.inLen.toNat) (info : Word) :
    s.need k info = .ok () := if_neg (by omega)

theorem State.need_error {s : State} {k : Nat} (h : s.inLen.toNat < s.inPtr.toNat + k) (info : Word) :
    s.need k info = .error ⟨.idHdrTrunc, info, s⟩ := if_pos h

theorem extractLsb'_ofNat64 (n : Nat) : (BitVec.ofNat 64 n).extractLsb' 0 32 = BitVec.ofNat 32 n := by
  refine BitVec.eq_of_toNat_eq ?_
  rw [BitVec.extractLsb'_toNat, BitVec.toNat_ofNat, BitVec.toNat_ofNat, Nat.shiftRight_zero]
  exact Nat.mod_mod_of_dvd n (by decide)

/-- What RDHDR does once it has read the magic. -/
def rdhdrAfterMagic (s : State) : Run State := do
  s.need 8 s.inPtr
  let (cnt, s) := s.readLe8
  if cnt.toNat = 0 then .error ⟨.idHdrEmpty, 0, s⟩
  else if 256 < cnt.toNat then .error ⟨.idHdrRange, cnt.extractLsb' 0 32, s⟩
  else readEntries cnt.toNat 0 s

theorem rdhdrBody_short {s : State} (h : s.inputOk) (h3 : s.inLen.toNat < s.inPtr.toNat + 3) :
    rdhdrBody s = .error ⟨.idHdrTrunc, s.inPtr, s.clearFt⟩ := by
  have hneed : s.clearFt.need 3 s.clearFt.inPtr = .error ⟨.idHdrTrunc, s.inPtr, s.clearFt⟩ :=
    State.need_error (s := s.clearFt) h3 _
  rw [rdhdrBody, State.inputChecks_ok s h]
  dsimp only [bind, Except.bind]
  rw [hneed]

/-- The first three bytes, least significant first, as the information word has them (R163). -/
theorem leNat_three (m0 m1 m2 : Byte) :
    (0#8 ++ m2 ++ m1 ++ m0).setWidth 32 = BitVec.ofNat 32 (leNat [m0, m1, m2]) := by
  have h0 := m0.isLt
  have h1 := m1.isLt
  have h2 := m2.isLt
  refine BitVec.eq_of_toNat_eq ?_
  simp only [leNat, BitVec.toNat_setWidth, BitVec.toNat_append, BitVec.toNat_ofNat]
  rw [← Nat.shiftLeft_add_eq_or_of_lt h0, ← Nat.shiftLeft_add_eq_or_of_lt h1, ← Nat.shiftLeft_add_eq_or_of_lt h2]
  simp only [Nat.shiftLeft_eq]
  omega

/-- RDHDR on an input of three bytes or more reads the magic and checks it (R163). -/
theorem rdhdrBody_eq {s : State} (h : s.inputOk) (h3 : s.inPtr.toNat + 3 ≤ s.inLen.toNat) :
    rdhdrBody s = if s.ibufBytes s.inPtr.toNat 3 = magic then rdhdrAfterMagic (s.clearFt.readPast 3)
      else .error ⟨.idBadMagic, BitVec.ofNat 32 (leNat (s.ibufBytes s.inPtr.toNat 3)), s.clearFt.readPast 3⟩ := by
  have hfetch := State.fetchMany_inside (s := s.clearFt) h3
  obtain ⟨m0, s0, h0⟩ : ∃ m t, s.clearFt.fetch = (m, t) := ⟨_, _, rfl⟩
  obtain ⟨m1, s1, h1⟩ : ∃ m t, s0.fetch = (m, t) := ⟨_, _, rfl⟩
  obtain ⟨m2, s2, h2⟩ : ∃ m t, s1.fetch = (m, t) := ⟨_, _, rfl⟩
  simp only [State.fetchMany, h0, h1, h2] at hfetch
  obtain ⟨hbytes, rfl⟩ := Prod.mk.inj hfetch
  have hneed : s.clearFt.need 3 s.clearFt.inPtr = .ok () :=
    State.need_ok (s := s.clearFt) h3 _
  replace hbytes : s.ibufBytes s.inPtr.toNat 3 = [m0, m1, m2] := hbytes.symm
  rw [rdhdrBody, State.inputChecks_ok s h, hbytes]
  dsimp only [bind, Except.bind]
  rw [hneed, h0]
  dsimp only
  rw [h1]
  dsimp only
  rw [h2]
  dsimp only
  rw [ite_not, leNat_three]
  rfl

/-- Everything RDHDR can do once it has read the magic: one of the three checks on the count fails, or it goes on to the
entries (R163). -/
theorem rdhdrAfterMagic_cases {s : State} (h3 : s.inPtr.toNat + 3 ≤ s.inLen.toNat) :
    (s.inLen.toNat < s.inPtr.toNat + 11 ∧
      rdhdrAfterMagic (s.clearFt.readPast 3) = .error ⟨.idHdrTrunc, s.inPtr + 3#32, s.clearFt.readPast 3⟩) ∨
    (s.inPtr.toNat + 11 ≤ s.inLen.toNat ∧ s.symbolCount = 0 ∧
      rdhdrAfterMagic (s.clearFt.readPast 3) = .error ⟨.idHdrEmpty, 0, s.clearFt.readPast 11⟩) ∨
    (s.inPtr.toNat + 11 ≤ s.inLen.toNat ∧ 256 < s.symbolCount ∧
      rdhdrAfterMagic (s.clearFt.readPast 3) =
        .error ⟨.idHdrRange, BitVec.ofNat 32 s.symbolCount, s.clearFt.readPast 11⟩) ∨
    (s.inPtr.toNat + 11 ≤ s.inLen.toNat ∧ 1 ≤ s.symbolCount ∧ s.symbolCount ≤ 256 ∧
      rdhdrAfterMagic (s.clearFt.readPast 3) = readEntries s.symbolCount 0 (s.clearFt.readPast 11)) := by
  have hptr : (s.clearFt.readPast 3).inPtr.toNat = s.inPtr.toNat + 3 := State.readPast_toNat (s := s.clearFt) h3
  have hlen : (s.clearFt.readPast 3).inLen.toNat = s.inLen.toNat := rfl
  rcases Nat.lt_or_ge s.inLen.toNat (s.inPtr.toNat + 11) with h11 | h11
  · refine .inl ⟨h11, ?_⟩
    rw [rdhdrAfterMagic, State.need_error (by omega)]
    rfl
  · have hcnt : (s.clearFt.readPast 3).readLe8 = (BitVec.ofNat 64 s.symbolCount, s.clearFt.readPast 11) := by
      rw [State.readLe8_inside (by omega), State.readPast_readPast, hptr]
      rfl
    have hval : (BitVec.ofNat 64 s.symbolCount).toNat = s.symbolCount := Nat.mod_eq_of_lt s.symbolCount_lt
    have hlow : (BitVec.ofNat 64 s.symbolCount).extractLsb' 0 32 = BitVec.ofNat 32 s.symbolCount :=
      extractLsb'_ofNat64 _
    have hbody : rdhdrAfterMagic (s.clearFt.readPast 3) =
        if s.symbolCount = 0 then .error ⟨.idHdrEmpty, 0, s.clearFt.readPast 11⟩
        else if 256 < s.symbolCount then .error ⟨.idHdrRange, BitVec.ofNat 32 s.symbolCount, s.clearFt.readPast 11⟩
        else readEntries s.symbolCount 0 (s.clearFt.readPast 11) := by
      rw [rdhdrAfterMagic, State.need_ok (by omega), hcnt]
      dsimp only [bind, Except.bind]
      rw [hval, hlow]
    rw [hbody]
    by_cases hzero : s.symbolCount = 0
    · exact .inr (.inl ⟨h11, hzero, if_pos hzero⟩)
    · by_cases hbig : 256 < s.symbolCount
      · exact .inr (.inr (.inl ⟨h11, hbig, by rw [if_neg hzero, if_pos hbig]⟩))
      · exact .inr (.inr (.inr ⟨h11, by omega, by omega, by rw [if_neg hzero, if_neg hbig]⟩))

/-- An abort of RDHDR after `k` bytes of the fixed part, with the table still empty. -/
theorem State.readPast_clearFt_aborted (s : State) (k : Nat) (c : Cause) (info : Word) :
    aborted s ((s.clearFt.readPast k).raise c info) c info ∧
      ((s.clearFt.readPast k).raise c info).inPtr = s.inPtr + BitVec.ofNat 32 k ∧
      ((s.clearFt.readPast k).raise c info).nsym = 0 :=
  ⟨⟨rfl, rfl, rfl, rfl, rfl⟩, rfl, s.nsym_clearFt⟩

/-- Settles O33: by what RDHDR can do before and after the magic. -/
theorem rdhdrRejectsBadHeaders : Obligations.RdhdrRejectsBadHeaders := by
  intro s h
  refine ⟨settle (rdhdrBody s), rfl, fun hleft => ?_, fun hleft hmagic => ?_, fun hmagic hleft => ?_⟩
  · obtain ⟨-, -, hle⟩ := id h
    rw [State.inputLeft] at hleft
    rw [rdhdrBody_short h (by omega)]
    exact ⟨⟨rfl, rfl, rfl, rfl, rfl⟩, rfl, s.nsym_clearFt⟩
  · rw [State.inputLeft] at hleft
    rw [(rdhdrBody_eq h (by omega)).trans (if_neg hmagic)]
    exact s.readPast_clearFt_aborted _ _ _
  · rw [State.inputLeft] at hleft ⊢
    rw [(rdhdrBody_eq h (by omega)).trans (if_pos hmagic)]
    change _ ∧ (_ → s.symbolCount = 0 → _) ∧ (_ → 256 < s.symbolCount → _ )
    obtain ⟨h11, he⟩ | ⟨h11, hcount, he⟩ | ⟨h11, hcount, he⟩ | ⟨h11, hmin, hmax, -⟩ :=
      rdhdrAfterMagic_cases (s := s) (by omega)
    · rw [he]
      exact ⟨fun _ => s.readPast_clearFt_aborted _ _ _, fun _ => by omega, fun _ => by omega⟩
    · rw [he]
      exact ⟨fun _ => by omega, fun _ _ => s.readPast_clearFt_aborted _ _ _, fun _ _ => by omega⟩
    · rw [he]
      exact ⟨fun _ => by omega, fun _ _ => by omega, fun _ _ => s.readPast_clearFt_aborted _ _ _⟩
    · exact ⟨fun _ => by omega, fun _ _ => by omega, fun _ _ => by omega⟩

end Sys2Proof.Machine
end

section
/-! SUPPORT. ENCODE (R200, R201): the accumulator holds the byte that is not yet full, the output the full bytes before it. -/

namespace Sys2Proof.Machine

/-! ### Packed bytes -/

/-- The bits of a packed byte, most significant first (R125, R126). -/
theorem packedByte_getLsbD (bits : List Bool) (j : Nat) {i : Nat} (hi : i < 8) :
    (packedByte bits j).getLsbD i = bits.getD (8 * j + (7 - i)) false := by
  have hloop : ∀ n ≤ 8, ((List.range n).foldl (fun v m => writeBit v (7 - m) (bits.getD (8 * j + m) false)) 0#8).getLsbD i =
      if 7 - i < n then bits.getD (8 * j + (7 - i)) false else false := by
    intro n hn
    induction n with
    | zero => simp
    | succ n ih =>
      rw [List.range_succ, List.foldl_concat, writeBit_getLsbD _ _ _ _ (by omega), ih (by omega)]
      by_cases hin : i = 7 - n
      · have hn' : 7 - i = n := by omega
        rw [if_pos hin, if_pos (by omega), hn']
      · rw [if_neg hin]
        exact if_congr (by omega) rfl rfl
  rw [packedByte, hloop 8 le_rfl, if_pos (by omega)]

/-- Beyond the bits a packed byte is 0 (R126). -/
theorem packedByte_of_length_le {bits : List Bool} {j : Nat} (h : bits.length ≤ 8 * j) : packedByte bits j = 0#8 := by
  refine BitVec.eq_of_getLsbD_eq fun i hi => ?_
  rw [packedByte_getLsbD _ _ hi, List.getD_eq_default _ _ (by omega)]
  simp

/-- One bit more leaves the other bytes alone. -/
theorem packedByte_snoc_other (bits : List Bool) (b : Bool) {j : Nat} (h : j ≠ bits.length / 8) :
    packedByte (bits ++ [b]) j = packedByte bits j := by
  refine BitVec.eq_of_getLsbD_eq fun i hi => ?_
  rw [packedByte_getLsbD _ _ hi, packedByte_getLsbD _ _ hi, List.getD_eq_getElem?_getD, List.getD_eq_getElem?_getD]
  rcases Nat.lt_or_ge (8 * j + (7 - i)) bits.length with hlt | hge
  · rw [List.getElem?_append_left hlt]
  · rw [List.getElem?_eq_none hge, List.getElem?_eq_none (by rw [List.length_append, List.length_singleton]; omega)]

/-- One bit more goes to its place in the last byte. -/
theorem packedByte_snoc_last (bits : List Bool) (b : Bool) :
    packedByte (bits ++ [b]) (bits.length / 8) = writeBit (packedByte bits (bits.length / 8)) (7 - bits.length % 8) b := by
  refine BitVec.eq_of_getLsbD_eq fun i hi => ?_
  rw [packedByte_getLsbD _ _ hi, writeBit_getLsbD _ _ _ _ (by omega), packedByte_getLsbD _ _ hi,
    List.getD_eq_getElem?_getD, List.getD_eq_getElem?_getD]
  rcases Nat.lt_trichotomy (8 * (bits.length / 8) + (7 - i)) bits.length with hlt | heq | hgt
  · rw [if_neg (by omega), List.getElem?_append_left hlt]
  · rw [if_pos (by omega), heq, List.getElem?_concat_length]
    rfl
  · rw [if_neg (by omega), List.getElem?_eq_none (by rw [List.length_append, List.length_singleton]; omega),
      List.getElem?_eq_none (by omega)]

/-- The full bytes of a bit sequence. -/
def fullBytes (bits : List Bool) : List Byte := (List.range (bits.length / 8)).map (packedByte bits)

/-- The byte after them, which is 0 when no bit is left for it. -/
def pendingByte (bits : List Bool) : Byte := packedByte bits (bits.length / 8)

theorem fullBytes_snoc (bits : List Bool) (b : Bool) :
    fullBytes (bits ++ [b]) =
      if (bits.length + 1) % 8 = 0 then fullBytes bits ++ [packedByte (bits ++ [b]) (bits.length / 8)]
      else fullBytes bits := by
  have hsame : (List.range (bits.length / 8)).map (packedByte (bits ++ [b])) = fullBytes bits :=
    List.map_congr_left fun j hj => packedByte_snoc_other bits b (Nat.ne_of_lt (List.mem_range.mp hj))
  rw [fullBytes, List.length_append, List.length_singleton]
  split
  next h =>
    rw [show (bits.length + 1) / 8 = bits.length / 8 + 1 by omega, List.range_succ, List.map_append, hsame]
    rfl
  next h => rw [show (bits.length + 1) / 8 = bits.length / 8 by omega, hsame]

theorem fullBytes_prefix_snoc (bits : List Bool) (b : Bool) : fullBytes bits <+: fullBytes (bits ++ [b]) := by
  rw [fullBytes_snoc]
  split
  · exact List.prefix_append _ _
  · exact List.prefix_rfl

theorem fullBytes_prefix_append (bits more : List Bool) : fullBytes bits <+: fullBytes (bits ++ more) := by
  induction more generalizing bits with
  | nil => rw [List.append_nil]
  | cons b more ih =>
    rw [List.append_cons]
    exact (fullBytes_prefix_snoc bits b).trans (ih _)

theorem pendingByte_eq_zero {bits : List Bool} (h : bits.length % 8 = 0) : pendingByte bits = 0#8 :=
  packedByte_of_length_le (by omega)

/-- The packed bytes are the full ones and, if a bit is left, the one after them. -/
theorem packBits_eq (bits : List Bool) :
    packBits bits = if bits.length % 8 = 0 then fullBytes bits else fullBytes bits ++ [pendingByte bits] := by
  rw [packBits]
  split
  next h => rw [show (bits.length + 7) / 8 = bits.length / 8 by omega, fullBytes]
  next h =>
    rw [show (bits.length + 7) / 8 = bits.length / 8 + 1 by omega, List.range_succ, List.map_append]
    rfl

/-- Whether ENCODE(Z) emits the byte that is not full (R201). -/
def flushes (z : Bool) (bits : List Bool) : Bool :=
  if z then decide (pendingByte bits ≠ 0) else decide (bits.length % 8 ≠ 0)

theorem flushes_true (bits : List Bool) : flushes true bits = true ↔ pendingByte bits ≠ 0 := decide_eq_true_iff

theorem flushes_false (bits : List Bool) : flushes false bits = true ↔ bits.length % 8 ≠ 0 := decide_eq_true_iff

/-- The output of ENCODE(Z): the full bytes, and the one after them if it is flushed (R126, R201). -/
theorem packedOutput_eq (z : Bool) (bits : List Bool) :
    packedOutput z bits = if flushes z bits then fullBytes bits ++ [pendingByte bits] else fullBytes bits := by
  rw [packedOutput, packBits_eq]
  by_cases h0 : bits.length % 8 = 0
  · have hz : ¬flushes z bits = true := by
      cases z with
      | true => rw [flushes_true, not_not]; exact pendingByte_eq_zero h0
      | false => rw [flushes_false, not_not]; exact h0
    rw [if_neg (fun h => h.2.1 h0), if_pos h0, if_neg hz]
  · rw [if_neg h0, List.dropLast_concat]
    cases z with
    | true =>
      by_cases hp : pendingByte bits = 0
      · rw [if_pos ⟨rfl, h0, hp⟩, if_neg (by rwa [flushes_true, not_not])]
      · rw [if_neg (fun h => hp h.2.2), if_pos ((flushes_true bits).mpr hp)]
    | false => rw [if_neg (fun h => Bool.noConfusion h.1), if_pos ((flushes_false bits).mpr h0)]

theorem fullBytes_prefix_packedOutput (z : Bool) (bits : List Bool) : fullBytes bits <+: packedOutput z bits := by
  rw [packedOutput_eq]
  split
  · exact List.prefix_append _ _
  · exact List.prefix_rfl

/-! ### An output that overflows -/

/-- The error `e` of a piece whose whole output would be `out`: IO_OUT_OVF at the first byte that finds OBUF full, the bytes
before it written (R77, R265). -/
structure Overflowed (s : State) (out : List Byte) (e : Raise) : Prop where
  cause : e.cause = .ioOutOvf
  info : e.info = e.state.outPtr
  short : s.cfg.obufSize - s.outPtr.toNat < out.length
  appended : Appended s (out.take (s.cfg.obufSize - s.outPtr.toNat)) e.state

/-- A piece that overflows still does when more output would follow. -/
theorem Overflowed.mono {s : State} {out out' : List Byte} {e : Raise} (h : Overflowed s out e) (hpre : out <+: out') :
    Overflowed s out' e := by
  obtain ⟨more, rfl⟩ := hpre
  refine ⟨h.cause, h.info, h.short.trans_le (by simp), ?_⟩
  rw [List.take_append_of_le_length h.short.le]
  exact h.appended

theorem Post.overflow_mono {α : Type} {s : State} {out out' : List Byte} {Q : α → Prop} {r : Run α}
    (h : Post (Overflowed s out) Q r) (hpre : out <+: out') : Post (Overflowed s out') Q r :=
  h.imp (fun _ he => he.mono hpre) fun _ hu => hu

/-- One byte appended after the bytes `bs`, or an overflow. -/
theorem Appended.emit_post {s t : State} {bs : List Byte} (h : Appended s bs t) (hcfg : s.cfg.legal = true) (v : Byte) :
    Post (Overflowed s (bs ++ [v])) (fun u => u = t.wrote [v] ∧ Appended s (bs ++ [v]) u) (t.emit v) := by
  rcases h.emit hcfg v with ⟨he, happ⟩ | ⟨he, hlen⟩ <;> rw [he]
  · exact ⟨rfl, happ⟩
  · refine ⟨rfl, rfl, by simp [hlen], ?_⟩
    rw [← hlen, List.take_left]
    exact h

/-! ### Packing -/

/-- ENCODE from `s` has read `j` bytes and packed the bits `bits`. -/
structure Packing (s : State) (j : Nat) (bits : List Bool) (t : State) : Prop where
  appended : Appended s (fullBytes bits) t
  acc : t.acc = pendingByte bits
  nacc : t.nacc.val = bits.length % 8
  inPtr : t.inPtr = (s.readPast j).inPtr
  ibuf : t.ibuf = s.ibuf
  codes : t.codes = s.codes

theorem pushBit_packs {s t : State} {j : Nat} {bits : List Bool} (h : Packing s j bits t) (hcfg : s.cfg.legal = true)
    (b : Bool) : Post (Overflowed s (fullBytes (bits ++ [b]))) (Packing s j (bits ++ [b])) (pushBit b t) := by
  obtain ⟨happ, hacc, hnacc, hptr, hibuf, hcodes⟩ := h
  have hadd : (t.nacc + 1).val = bits.length % 8 + 1 := by
    rw [Fin.val_add, hnacc]
    exact Nat.mod_eq_of_lt (by omega)
  have hbyte : writeBit t.acc (7 - t.nacc.val) b = packedByte (bits ++ [b]) (bits.length / 8) := by
    rw [hacc, hnacc, packedByte_snoc_last]
    rfl
  have hlen : (bits ++ [b]).length = bits.length + 1 := List.length_append
  unfold pushBit
  extract_lets u
  have hu : Appended s (fullBytes bits) u := happ.same
  have huacc : u.acc = packedByte (bits ++ [b]) (bits.length / 8) := hbyte
  rw [fullBytes_snoc]
  by_cases hfull : (bits.length + 1) % 8 = 0
  · have h8 : u.nacc = 8 := Fin.ext (hadd.trans (show _ = 8 by omega))
    rw [if_pos hfull, if_pos h8, huacc]
    refine Post.bind (hu.emit_post hcfg _) ?_
    rintro _ ⟨rfl, hdone⟩
    refine ⟨?_, (pendingByte_eq_zero (by omega)).symm, by rw [hlen, hfull]; rfl, hptr, hibuf, hcodes⟩
    rw [fullBytes_snoc, if_pos hfull]
    exact hdone.same
  · have h8 : ¬u.nacc = 8 := fun h8 => by
      have : bits.length % 8 + 1 = 8 := hadd.symm.trans (congrArg Fin.val h8)
      omega
    rw [if_neg hfull, if_neg h8]
    refine ⟨?_, huacc.trans ?_, hadd.trans (by omega), hptr, hibuf, hcodes⟩
    · rwa [fullBytes_snoc, if_neg hfull]
    · rw [pendingByte, hlen, show (bits.length + 1) / 8 = bits.length / 8 by omega]

theorem pushBits_packs {s t : State} {j : Nat} {bits : List Bool} (h : Packing s j bits t) (hcfg : s.cfg.legal = true)
    (more : List Bool) :
    Post (Overflowed s (fullBytes (bits ++ more))) (Packing s j (bits ++ more)) (pushBits more t) := by
  induction more generalizing bits t with
  | nil =>
    rw [List.append_nil]
    exact h
  | cons b more ih =>
    rw [List.append_cons]
    exact Post.bind ((pushBit_packs h hcfg b).overflow_mono (fullBytes_prefix_append _ _)) fun u hu => ih hu

/-! ### The loop over the input -/

/-- The code bits of the next `j` input bytes. -/
def State.codeBits (s : State) (j : Nat) : List Bool := s.messageBits (s.ibufBytes s.inPtr.toNat j)

theorem State.codeBits_zero (s : State) : s.codeBits 0 = [] := rfl

theorem State.codeBits_succ (s : State) (j : Nat) :
    s.codeBits (j + 1) = s.codeBits j ++ (codeAt s.codes (s.ibufAt (s.inPtr.toNat + j))).code := by
  simp [State.codeBits, State.messageBits, State.ibufBytes, List.range_succ]

/-- ENCODE starts with an empty accumulator. -/
theorem Packing.start (s : State) : Packing s 0 (s.codeBits 0) { s with acc := 0, nacc := 0 } := by
  rw [s.codeBits_zero]
  exact ⟨(Appended.nil s).same, rfl, rfl, (congrArg State.inPtr s.readPast_zero).symm, rfl, rfl⟩

theorem encodeOne_packs {s t : State} {j : Nat} (h : Packing s j (s.codeBits j) t) (hcfg : s.cfg.legal = true)
    (hj : s.inPtr.toNat + j < s.inLen.toNat) (hhas : (codeAt s.codes (s.ibufAt (s.inPtr.toNat + j))).has = true) :
    Post (Overflowed s (fullBytes (s.codeBits (j + 1)))) (Packing s (j + 1) (s.codeBits (j + 1))) (encodeOne t) := by
  obtain ⟨happ, hacc, hnacc, hptr, hibuf, hcodes⟩ := h
  have hbyte : t.fetch.1 = s.ibufAt (s.inPtr.toNat + j) := by
    rw [State.fetch_fst, hptr, State.readPast_toNat hj.le, State.ibufAt, hibuf, happ.epoch]
    rfl
  have hread : Packing s (j + 1) (s.codeBits j) t.fetch.2 := by
    refine ⟨happ.same, hacc, hnacc, ?_, hibuf, hcodes⟩
    rw [State.fetch_snd, State.readPast_inPtr, hptr, ← State.readPast_inPtr, State.readPast_readPast]
  unfold encodeOne
  change Post _ _ (if (codeAt t.codes t.fetch.1).has = false then _ else pushBits (codeAt t.codes t.fetch.1).code t.fetch.2)
  rw [hcodes, hbyte, if_neg (by simp [hhas]), State.codeBits_succ]
  exact pushBits_packs hread hcfg _

/-- The full bytes of the first bytes' codes begin those of all. -/
theorem State.fullBytes_codeBits_prefix (s : State) (j k : Nat) :
    fullBytes (s.codeBits j) <+: fullBytes (s.codeBits (j + k)) := by
  induction k with
  | zero => exact List.prefix_rfl
  | succ k ih =>
    rw [← Nat.add_assoc, State.codeBits_succ]
    exact ih.trans (fullBytes_prefix_append _ _)

theorem encodeLoop_packs {s t : State} {j : Nat} (k : Nat) (h : Packing s j (s.codeBits j) t) (hcfg : s.cfg.legal = true)
    (hk : s.inPtr.toNat + (j + k) ≤ s.inLen.toNat)
    (hhas : ∀ i < j + k, (codeAt s.codes (s.ibufAt (s.inPtr.toNat + i))).has = true) :
    Post (Overflowed s (fullBytes (s.codeBits (j + k)))) (Packing s (j + k) (s.codeBits (j + k))) (encodeLoop k t) := by
  induction k generalizing j t with
  | zero => exact h
  | succ k ih =>
    rw [show j + (k + 1) = j + 1 + k by omega] at hk hhas ⊢
    exact Post.bind ((encodeOne_packs h hcfg (by omega) (hhas j (by omega))).overflow_mono
      (s.fullBytes_codeBits_prefix (j + 1) k)) fun u hu => ih hu hk hhas

/-! ### The flush -/

/-- ENCODE(Z) flushes the byte that is not full, or drops it (R201). -/
theorem flush_eq {s t : State} {j : Nat} {bits : List Bool} (h : Packing s j bits t) (z : Bool) :
    flush z t =
      (if flushes z bits then t.emit (pendingByte bits) else .ok t) >>= fun u => .ok { u with acc := 0, nacc := 0 } := by
  rw [flush, h.acc, h.nacc]
  cases z with
  | true => simp only [flushes_true, if_true]
  | false => simp only [flushes_false, Nat.pos_iff_ne_zero, Bool.false_eq_true, if_false]

theorem flush_packs {s t : State} {j : Nat} {bits : List Bool} (h : Packing s j bits t) (hcfg : s.cfg.legal = true)
    (z : Bool) :
    Post (Overflowed s (packedOutput z bits))
      (fun u => Appended s (packedOutput z bits) u ∧ u.inPtr = (s.readPast j).inPtr ∧ u.acc = 0 ∧ u.nacc = 0)
      (flush z t) := by
  rw [flush_eq h, packedOutput_eq]
  by_cases hz : flushes z bits = true
  · rw [if_pos hz, if_pos hz]
    refine Post.bind (h.appended.emit_post hcfg _) ?_
    rintro _ ⟨rfl, hdone⟩
    exact ⟨hdone.same, h.inPtr, rfl, rfl⟩
  · rw [if_neg hz, if_neg hz]
    exact ⟨h.appended.same, h.inPtr, rfl, rfl⟩

/-! ### ENCODE -/

/-- ENCODE of an input whose bytes all have codes: it appends their packed bits, or as many bytes of them as fit (R202). -/
theorem encodeBody_packs {s : State} (z : Bool) (hcfg : s.cfg.legal = true) (h : s.inputOk) (hv : s.codeValid = true)
    (hhas : ∀ b ∈ s.inputBytes, (codeAt s.codes b).has = true) :
    Post (Overflowed s (packedOutput z (s.messageBits s.inputBytes)))
      (fun u => Appended s (packedOutput z (s.messageBits s.inputBytes)) u ∧ u.inPtr = s.inLen ∧ u.acc = 0 ∧ u.nacc = 0)
      (encodeBody z s) := by
  obtain ⟨-, -, hle⟩ := id h
  have hleft : s.inPtr.toNat + s.inputLeft = s.inLen.toNat := Nat.add_sub_cancel' hle
  have hloop := encodeLoop_packs s.inputLeft (.start s) hcfg (by omega) fun i hi =>
    hhas _ (List.mem_map.mpr ⟨i, List.mem_range.mpr (by omega), rfl⟩)
  rw [Nat.zero_add] at hloop
  rw [encodeBody, State.inputChecks_ok s h]
  change Post _ _ (if s.codeValid = false then _ else encodeLoop s.inputLeft { s with acc := 0, nacc := 0 } >>= flush z)
  rw [if_neg (by simp [hv])]
  exact Post.bind (hloop.overflow_mono (fullBytes_prefix_packedOutput z _)) fun u hu =>
    (flush_packs hu hcfg z).imp (fun _ he => he) fun v ⟨happ, hptr, hpacker⟩ => ⟨happ, hptr.trans (State.readPast_inputLeft hle), hpacker⟩

/-- Settles O57: an ENCODE that does not overflow has written all of its output. -/
theorem encodeOverflowKeepsPrefix : Obligations.EncodeOverflowKeepsPrefix := by
  rintro z s out k hcfg h hv hhas rfl hne hroom rfl
  have hpost := encodeBody_packs z hcfg h hv hhas
  have hexec : exec (.encode z) s = .next (settle (encodeBody z s)) := rfl
  match hbody : encodeBody z s with
  | .ok u =>
    rw [hbody] at hpost
    obtain ⟨⟨-, -, -, -, hfits⟩, -⟩ := hpost
    exact absurd hroom (Nat.not_lt.mpr (hfits.resolve_left hne))
  | .error e =>
    have habort := aborted_of_error (encodeBody_reaches z s) hbody
    rw [hbody] at hpost
    obtain ⟨hcause, hinfo, hshort, happ⟩ := hpost
    rw [hcause, hinfo] at habort
    have happ := happ.raise e.cause e.info
    have hlen : ((packedOutput z (s.messageBits s.inputBytes)).take (s.cfg.obufSize - s.outPtr.toNat)).length =
        s.cfg.obufSize - s.outPtr.toNat := List.length_take_of_le hshort.le
    have hptr := happ.outPtr_toNat hcfg
    have hbytes := happ.obufBytes
    have hout := happ.outside
    rw [hlen] at hptr hbytes hout
    rw [hbody] at hexec habort
    exact ⟨_, hexec, habort, hptr, hbytes, hout,
      sameTables_of_exec hexec (by simp [commandParts]) (by simp [commandParts]) (by simp [commandParts]),
      (commandsLeaveHostSide _ s _ hexec).1⟩

end Sys2Proof.Machine
end

section
/-! SUPPORT. A valid tree read from the root downwards: a symbol's code leads to its leaf and through no other leaf (R127), and
what a walk over a bit sequence writes (R220). -/

namespace Sys2Proof.Machine

/-! ### Paths -/

/-- The child of node `j` that a bit leads to (R127). -/
def State.child (s : State) (j : NodeIx) (b : Bool) : NodeIx :=
  if b then (nodeAt s.tree.nodes j).right else (nodeAt s.tree.nodes j).left

/-- The bits lead from node `j` to a leaf with the symbol `sym`, and through no leaf before it. -/
def State.LeadsTo (s : State) (sym : Byte) : NodeIx → List Bool → Prop
  | j, [] => (nodeAt s.tree.nodes j).leaf = true ∧ (nodeAt s.tree.nodes j).sym = sym
  | j, b :: bits => (nodeAt s.tree.nodes j).leaf = false ∧ s.LeadsTo sym (s.child j b) bits

theorem State.LeadsTo.not_leaf {s : State} {sym : Byte} {j : NodeIx} {bits : List Bool} (h : s.LeadsTo sym j bits)
    (hne : bits ≠ []) : (nodeAt s.tree.nodes j).leaf = false := by
  cases bits with
  | nil => exact absurd rfl hne
  | cons b bits => exact h.1

/-- A node of a valid tree without a parent is the root. -/
theorem State.treeOk.eq_root {s : State} (h : s.treeOk) {i : Nat} (hi : i < 2 * s.nsym - 1)
    (hp : (s.node i).hasp = false) : nodeIx i = s.tree.root := by
  obtain ⟨-, -, hroot, -, -, -, -, hchild⟩ := h
  have hlast : i = 2 * s.nsym - 2 := by
    by_contra hne
    obtain ⟨hp', -⟩ := hchild i (by omega)
    exact Bool.false_ne_true (hp.symm.trans hp')
  rw [hlast, ← hroot, nodeIx_of_val]

/-- The parent of a node of a valid tree is an internal node, and the bit CODEGEN appends leads back (R57, R190). -/
theorem State.treeOk.parent {s : State} (h : s.treeOk) {i : Nat} (hi : i < 2 * s.nsym - 1)
    (hp : (s.node i).hasp = true) :
    (s.node i).parent.val < 2 * s.nsym - 1 ∧ (nodeAt s.tree.nodes (s.node i).parent).leaf = false ∧
      s.child (s.node i).parent
        (if (nodeAt s.tree.nodes (s.node i).parent).left = nodeIx i then false else true) = nodeIx i := by
  obtain ⟨-, -, -, hlast, -, -, hinternal, hchild⟩ := h
  have hne : i ≠ 2 * s.nsym - 2 := fun he => Bool.false_ne_true (hlast.symm.trans (he ▸ hp))
  obtain ⟨-, hinner, -, hmax, hside⟩ := hchild i (by omega)
  obtain ⟨hleaf, -⟩ := hinternal _ hmax hinner
  unfold State.node at hleaf hside
  rw [nodeIx_of_val] at hleaf hside
  refine ⟨hmax, hleaf, ?_⟩
  have hval : ∀ j : NodeIx, j.val = i → j = nodeIx i := fun j hj => by rw [← hj, nodeIx_of_val]
  by_cases hleft : (nodeAt s.tree.nodes (s.node i).parent).left = nodeIx i
  · rw [if_pos hleft]
    exact hleft
  · rw [if_neg hleft]
    exact hval _ (hside.resolve_left fun hl => hleft (hval _ hl))

/-- CODEGEN's walk to the root, read backwards, leads to where it started. -/
theorem leadsTo_of_parentWalk {s : State} (h : s.treeOk) {sym : Byte} (fuel : Nat) {i : Nat} {bits path : List Bool}
    (hi : i < 2 * s.nsym - 1) (hbits : s.LeadsTo sym (nodeIx i) bits.reverse)
    (hwalk : parentWalk s.tree.nodes fuel (nodeIx i) bits = some path) : s.LeadsTo sym s.tree.root path.reverse := by
  induction fuel generalizing i bits with
  | zero =>
    cases hp : (s.node i).hasp with
    | false =>
      obtain rfl := Option.some.inj ((parentWalk_of_root hp 0 bits).symm.trans hwalk)
      rwa [h.eq_root hi hp] at hbits
    | true =>
      rw [parentWalk] at hwalk
      exact nomatch (if_pos hp).symm.trans hwalk
  | succ fuel ih =>
    cases hp : (s.node i).hasp with
    | false =>
      obtain rfl := Option.some.inj ((parentWalk_of_root hp _ bits).symm.trans hwalk)
      rwa [h.eq_root hi hp] at hbits
    | true =>
      obtain ⟨hmax, hleaf, hback⟩ := h.parent hi hp
      have hlead : s.LeadsTo sym (s.node i).parent
          (bits ++ [if (nodeAt s.tree.nodes (s.node i).parent).left = nodeIx i then false else true]).reverse := by
        rw [List.reverse_append]
        refine ⟨hleaf, ?_⟩
        change s.LeadsTo sym (s.child _ _) bits.reverse
        rwa [hback]
      exact ih hmax (by rwa [nodeIx_of_val])
        (by rw [nodeIx_of_val]; exact (parentWalk_of_child hp fuel bits).symm.trans hwalk)

/-- The code of a present symbol leads from the root to its leaf (R127). -/
theorem leadsTo_treeCode {s : State} (h : s.treeOk) {sym : Byte} (hsym : (s.ftAt sym).present = true) :
    s.LeadsTo sym s.tree.root (s.treeCode sym) := by
  obtain ⟨-, -, -, -, -, ⟨hleaf, -, hall⟩, -, -⟩ := id h
  obtain ⟨i, hi, hisym⟩ := hall sym (mem_allSymbols sym) hsym
  have hfind : ∃ k, (List.range s.nsym).find? (fun i => (s.node i).sym == sym) = some k :=
    Option.isSome_iff_exists.mp (List.find?_isSome.mpr ⟨i, hi, beq_iff_eq.mpr hisym⟩)
  obtain ⟨k, hk⟩ := hfind
  have hksym : (s.node k).sym = sym := by simpa using List.find?_some hk
  have hkn : k < s.nsym := List.mem_range.mp (List.mem_of_find?_eq_some hk)
  obtain ⟨code, hcode, -⟩ := leafCode_of_treeOk h hkn
  obtain ⟨path, hpath, rfl⟩ := Option.map_eq_some_iff.mp hcode
  have htree : s.treeCode sym = path.reverse := by
    rw [State.treeCode, hk, Option.bind_some, hcode, Option.getD_some]
  obtain ⟨hkleaf, -⟩ := hleaf k hkn
  rw [htree]
  exact leadsTo_of_parentWalk h 255 (bits := []) (i := k) (by omega) ⟨hkleaf, hksym⟩ hpath

/-- The root of a tree with two or more symbols is an internal node. -/
theorem root_not_leaf {s : State} (h : s.treeOk) (hn : 2 ≤ s.nsym) : (nodeAt s.tree.nodes s.tree.root).leaf = false := by
  obtain ⟨-, -, hroot, -, -, -, hinternal, -⟩ := h
  obtain ⟨hleaf, -⟩ := hinternal (2 * s.nsym - 2) (by omega) (by omega)
  rwa [← hroot, State.node, nodeIx_of_val] at hleaf

theorem treeCode_ne_nil {s : State} (h : s.treeOk) (hn : 2 ≤ s.nsym) {sym : Byte}
    (hsym : (s.ftAt sym).present = true) : s.treeCode sym ≠ [] := by
  intro hnil
  have hlead := leadsTo_treeCode h hsym
  rw [hnil] at hlead
  exact Bool.false_ne_true ((root_not_leaf h hn).symm.trans hlead.1)

/-! ### Walks -/

/-- One bit of the walk, from the symbols written so far and the node it stands at: at a leaf its symbol is written and the walk
goes back to the root (R220). -/
def State.walkOn (s : State) (p : List Byte × NodeIx) (b : Bool) : List Byte × NodeIx :=
  if (nodeAt s.tree.nodes (s.child p.2 b)).leaf then (p.1 ++ [(nodeAt s.tree.nodes (s.child p.2 b)).sym], s.tree.root)
  else (p.1, s.child p.2 b)

/-- The symbols a walk over the bits writes, and the node at which it ends. -/
def State.walked (s : State) (bits : List Bool) : List Byte × NodeIx := bits.foldl s.walkOn ([], s.tree.root)

section Walks
variable {s : State}

/-- A walk only adds symbols. -/
theorem foldl_walkOn_prefix (bits : List Bool) (p : List Byte × NodeIx) : p.1 <+: (bits.foldl s.walkOn p).1 := by
  induction bits generalizing p with
  | nil => exact List.prefix_rfl
  | cons b bits ih =>
    refine List.IsPrefix.trans ?_ (ih (s.walkOn p b))
    unfold State.walkOn
    split
    · exact List.prefix_append _ _
    · exact List.prefix_rfl

theorem walked_prefix {bits bits' : List Bool} (h : bits <+: bits') : (s.walked bits).1 <+: (s.walked bits').1 := by
  obtain ⟨more, rfl⟩ := h
  rw [State.walked, State.walked, List.foldl_append]
  exact foldl_walkOn_prefix more _

/-- Along a path to a leaf nothing is written before its end. -/
theorem foldl_walkOn_of_proper {sym : Byte} {bits rest : List Bool} {p : List Byte × NodeIx} (h : s.LeadsTo sym p.2 bits)
    (hpre : rest <+: bits) (hne : rest ≠ bits) : (rest.foldl s.walkOn p).1 = p.1 := by
  induction rest generalizing bits p with
  | nil => rfl
  | cons b rest ih =>
    obtain ⟨more, rfl⟩ := hpre
    replace h : s.LeadsTo sym (s.child p.2 b) (rest ++ more) := h.2
    have hmore : rest ≠ rest ++ more := fun he => hne (congrArg (b :: ·) he)
    have hinner := h.not_leaf fun he => hmore (by rw [he, (List.append_eq_nil_iff.mp he).1])
    rw [List.foldl_cons, State.walkOn, if_neg (by simp [hinner])]
    exact ih h (List.prefix_append _ _) hmore

/-- At the end of a path to a leaf its symbol is written. -/
theorem foldl_walkOn_of_leadsTo {sym : Byte} {bits : List Bool} {p : List Byte × NodeIx} (h : s.LeadsTo sym p.2 bits)
    (hne : bits ≠ []) : bits.foldl s.walkOn p = (p.1 ++ [sym], s.tree.root) := by
  induction bits generalizing p with
  | nil => exact absurd rfl hne
  | cons b bits ih =>
    obtain ⟨-, h⟩ := h
    rw [List.foldl_cons, State.walkOn]
    cases bits with
    | nil =>
      obtain ⟨hleaf, rfl⟩ := h
      rw [if_pos hleaf]
      rfl
    | cons b' bits =>
      rw [if_neg (by simp [h.1])]
      exact ih h (List.cons_ne_nil _ _)

/-- The codes of a message are walked back to the message (R125, R127). -/
theorem foldl_walkOn_message (h : s.treeOk) (hn : 2 ≤ s.nsym) {msg : List Byte}
    (hmsg : ∀ b ∈ msg, (s.ftAt b).present = true) (done : List Byte) :
    (msg.flatMap s.treeCode).foldl s.walkOn (done, s.tree.root) = (done ++ msg, s.tree.root) := by
  induction msg generalizing done with
  | nil => rw [List.append_nil]; rfl
  | cons a msg ih =>
    have ha := hmsg a List.mem_cons_self
    rw [List.flatMap_cons, List.foldl_append,
      foldl_walkOn_of_leadsTo (p := (done, s.tree.root)) (leadsTo_treeCode h ha) (treeCode_ne_nil h hn ha),
      ih fun b hb => hmsg b (List.mem_cons_of_mem a hb), List.append_assoc]
    rfl

theorem walked_message (h : s.treeOk) (hn : 2 ≤ s.nsym) {msg : List Byte}
    (hmsg : ∀ b ∈ msg, (s.ftAt b).present = true) : s.walked (msg.flatMap s.treeCode) = (msg, s.tree.root) :=
  foldl_walkOn_message h hn hmsg []

/-- A proper beginning of one code more writes nothing. -/
theorem walked_message_proper (h : s.treeOk) (hn : 2 ≤ s.nsym) {msg : List Byte} {sym : Byte} {rest : List Bool}
    (hmsg : ∀ b ∈ msg, (s.ftAt b).present = true) (hsym : (s.ftAt sym).present = true)
    (hpre : rest <+: s.treeCode sym) (hne : rest ≠ s.treeCode sym) :
    (s.walked (msg.flatMap s.treeCode ++ rest)).1 = msg := by
  have hwalk := walked_message h hn hmsg
  rw [State.walked] at hwalk ⊢
  rw [List.foldl_append, hwalk]
  exact foldl_walkOn_of_proper (leadsTo_treeCode h hsym) hpre hne

end Walks

end Sys2Proof.Machine
end

section
/-! SUPPORT. DECODE (R220, R223): what it has written and how far it has read after each bit of the input, and the ways in which
it ends. -/

namespace Sys2Proof.Machine

/-! ### The bits of the input -/

theorem unpackBits_length (bytes : List Byte) : (unpackBits bytes).length = 8 * bytes.length := by
  simp [unpackBits, Nat.mul_comm]

/-- Bit `8q + r` is bit `7 - r` of byte `q` (R125). -/
theorem unpackBits_getElem? (bytes : List Byte) (q : Nat) {r : Nat} (hr : r < 8) :
    (unpackBits bytes)[8 * q + r]? = bytes[q]?.map fun b => b.getLsbD (7 - r) := by
  induction bytes generalizing q with
  | nil => simp [unpackBits]
  | cons b bytes ih =>
    have hcons : unpackBits (b :: bytes) = (List.range 8).map (fun m => b.getLsbD (7 - m)) ++ unpackBits bytes := rfl
    rw [hcons]
    cases q with
    | zero =>
      rw [List.getElem?_append_left (by simpa using hr)]
      simp [hr]
    | succ q =>
      rw [List.getElem?_append_right (by simp; omega), List.length_map, List.length_range,
        show 8 * (q + 1) + r - 8 = 8 * q + r by omega, ih, List.getElem?_cons_succ]

/-- The bits of the input from IN_PTR on. -/
def State.inputBits (s : State) : List Bool := unpackBits s.inputBytes

theorem State.inputBits_length (s : State) : s.inputBits.length = 8 * s.inputLeft := by
  rw [State.inputBits, unpackBits_length, State.inputBytes, List.length_map, List.length_range]

theorem State.inputBits_getElem? (s : State) {q r : Nat} (hq : q < s.inputLeft) (hr : r < 8) :
    s.inputBits[8 * q + r]? = some ((s.ibufAt (s.inPtr.toNat + q)).getLsbD (7 - r)) := by
  rw [State.inputBits, unpackBits_getElem? _ _ hr, State.inputBytes]
  simp [hq]

/-- The symbols that the first `n` bits of the input give, and the node at which their walk ends. -/
def State.walkedTo (s : State) (n : Nat) : List Byte × NodeIx := s.walked (s.inputBits.take n)

theorem State.walkedTo_succ (s : State) {n : Nat} {b : Bool} (h : s.inputBits[n]? = some b) :
    s.walkedTo (n + 1) = s.walkOn (s.walkedTo n) b := by
  rw [State.walkedTo, List.take_add_one, h, State.walked, List.foldl_append]
  rfl

theorem State.walkedTo_prefix (s : State) {m n : Nat} (h : m ≤ n) : (s.walkedTo m).1 <+: (s.walkedTo n).1 :=
  walked_prefix (List.take_prefix_take_left h)

/-- How many symbols the first `n` bits of the input give. -/
def State.symbolsBy (s : State) (n : Nat) : Nat := (s.walkedTo n).1.length

theorem State.symbolsBy_mono (s : State) {m n : Nat} (h : m ≤ n) : s.symbolsBy m ≤ s.symbolsBy n :=
  (s.walkedTo_prefix h).length_le

/-! ### One bit -/

/-- DECODE from `s` has walked the first `n` bits of the input and read `j` bytes. -/
structure Walking (s : State) (n j : Nat) (t : State) : Prop where
  appended : Appended s (s.walkedTo n).1 t
  cur : t.walk.cur = (s.walkedTo n).2
  emitted : t.walk.emitted = BitVec.ofNat 64 (s.symbolsBy n)
  total : t.walk.total = BitVec.ofNat 64 s.ftTotal
  inPtr : t.inPtr = (s.readPast j).inPtr
  ibuf : t.ibuf = s.ibuf
  tree : t.tree = s.tree

/-- DECODE from `s` finds OBUF full at the symbol that bit `n` of the input ends (R77, R220). -/
structure FullAt (s : State) (n : Nat) (e : Raise) : Prop where
  cause : e.cause = .ioOutOvf
  info : e.info = e.state.outPtr
  inside : n < 8 * s.inputLeft
  next : s.symbolsBy (n + 1) = s.symbolsBy n + 1
  full : s.symbolsBy n = s.cfg.obufSize - s.outPtr.toNat
  appended : Appended s (s.walkedTo n).1 e.state
  inPtr : e.state.inPtr = (s.readPast (n / 8 + 1)).inPtr

/-- What is known while DECODE from `s` walks the bits of byte `j - 1` and symbols are still missing. -/
structure InByte (s : State) (n j : Nat) (t : State) : Prop where
  walking : Walking s n j t
  byte : t.walk.byte = s.ibufAt (s.inPtr.toNat + (j - 1))
  missing : s.symbolsBy n < s.ftTotal

/-- The bit at BITPOS is bit `n` of the input (R125, R220). -/
theorem InByte.inputBits_getElem? {s t : State} {n j : Nat} (h : InByte s n j t) (hj : j = n / 8 + 1)
    (hleft : j ≤ s.inputLeft) (hpos : t.walk.bitpos.val = 7 - n % 8) :
    s.inputBits[n]? = some (t.walk.byte.getLsbD t.walk.bitpos.val) := by
  have hn : n = 8 * (j - 1) + n % 8 := by omega
  rw [h.byte, hpos, ← s.inputBits_getElem? (by omega) (Nat.mod_lt n (by decide)), ← hn]

theorem walkBit_walks {s t : State} {n j : Nat} (hcfg : s.cfg.legal = true) (htotal : s.ftTotal < 2 ^ 64)
    (h : InByte s n j t) (hj : j = n / 8 + 1) (hleft : j ≤ s.inputLeft) (hpos : t.walk.bitpos.val = 7 - n % 8) :
    Post (FullAt s n) (fun p => Walking s (n + 1) j p.2 ∧ p.2.walk.byte = t.walk.byte ∧
        (p.1 = true ↔ s.symbolsBy (n + 1) = s.ftTotal) ∧ s.symbolsBy (n + 1) ≤ s.ftTotal) (walkBit t) := by
  have hstep := s.walkedTo_succ (h.inputBits_getElem? hj hleft hpos)
  obtain ⟨⟨happ, hcur, hemitted, htot, hptr, hibuf, htree⟩, -, hmissing⟩ := h
  have hcur' : (if t.walk.byte.getLsbD t.walk.bitpos.val then (nodeAt t.tree.nodes t.walk.cur).right
      else (nodeAt t.tree.nodes t.walk.cur).left) =
      s.child (s.walkedTo n).2 (t.walk.byte.getLsbD t.walk.bitpos.val) := by
    rw [htree, hcur, State.child]
  unfold walkBit
  extract_lets x cur w u y
  have hu : Appended s (s.walkedTo n).1 u := happ.same
  have hy : y = nodeAt s.tree.nodes (s.child (s.walkedTo n).2 (t.walk.byte.getLsbD t.walk.bitpos.val)) := by
    rw [← hcur', ← htree]
  rw [State.walkOn, ← hy] at hstep
  by_cases hleaf : y.leaf = true
  · rw [if_pos hleaf] at hstep ⊢
    have hnext : s.symbolsBy (n + 1) = s.symbolsBy n + 1 := by
      rw [State.symbolsBy, hstep, List.length_append]
      rfl
    rcases hu.emit hcfg y.sym with ⟨he, hdone⟩ | ⟨he, hfull⟩
    · rw [he]
      have hsym : (s.walkedTo n).1 ++ [y.sym] = (s.walkedTo (n + 1)).1 := (congrArg Prod.fst hstep).symm
      have hcount : t.walk.emitted + 1 = BitVec.ofNat 64 (s.symbolsBy (n + 1)) := by
        rw [hemitted, hnext, BitVec.ofNat_add]
        rfl
      refine ⟨⟨?_, ?_, hcount, htot, hptr, hibuf, htree⟩, rfl, ?_, by omega⟩
      · rw [← hsym]
        exact hdone.same
      · rw [hstep]
        exact congrArg Tree.root htree
      · change (t.walk.emitted + 1 == t.walk.total) = true ↔ _
        rw [beq_iff_eq, hcount, htot, ← BitVec.toNat_inj, BitVec.toNat_ofNat, BitVec.toNat_ofNat,
          Nat.mod_eq_of_lt (by omega), Nat.mod_eq_of_lt htotal]
    · rw [he]
      refine ⟨rfl, rfl, by omega, hnext, hfull, hu, ?_⟩
      rw [← hj]
      exact hptr
  · rw [if_neg hleaf] at hstep ⊢
    have hsame : s.symbolsBy (n + 1) = s.symbolsBy n := by
      rw [State.symbolsBy, hstep]
      rfl
    refine ⟨⟨?_, ?_, ?_, htot, hptr, hibuf, htree⟩, rfl, ?_, by omega⟩
    · rw [hstep]
      exact hu
    · rw [hstep]
      exact hcur'
    · rw [hsame]
      exact hemitted
    · rw [hsame]
      exact iff_of_false Bool.false_ne_true hmissing.ne

/-! ### One byte -/

/-- Choosing the next bit of the byte. -/
theorem InByte.withBitpos {s t : State} {n j : Nat} (h : InByte s n j t) (i : Fin 8) :
    InByte s n j { t with walk := { t.walk with bitpos := i } } :=
  ⟨⟨h.walking.appended.same, h.walking.cur, h.walking.emitted, h.walking.total, h.walking.inPtr, h.walking.ibuf,
    h.walking.tree⟩, h.byte, h.missing⟩

/-- After `n` bits DECODE is done with the `j` bytes it has read: bit `n - 1` has given the last symbol, or symbols are missing
and no bit is left of them (R220, R222). -/
structure BytesDone (s : State) (n j : Nat) : Prop where
  read : j = (n + 7) / 8
  ends : s.symbolsBy n = s.ftTotal ∨ n = 8 * j ∧ s.symbolsBy n < s.ftTotal
  needed : n = 0 ∨ s.symbolsBy (n - 1) < s.ftTotal

theorem walkByte_walks {s t : State} {n j : Nat} (hcfg : s.cfg.legal = true) (htotal : s.ftTotal < 2 ^ 64) (pos : Nat)
    (hpos : pos < 8) (h : InByte s n j t) (hn : n + (pos + 1) = 8 * j) (hleft : j ≤ s.inputLeft) :
    Post (fun e => ∃ m, FullAt s m e) (fun u => ∃ m, Walking s m j u ∧ BytesDone s m j) (walkByte pos t) := by
  induction pos generalizing n t with
  | zero =>
    have hbit := walkBit_walks hcfg htotal (h.withBitpos 0) (by omega) hleft (show 0 = 7 - n % 8 by omega)
    refine Post.bind (hbit.imp (fun e he => ⟨n, he⟩) fun p hp => hp) fun ⟨last, u⟩ ⟨hu, _, _, hle⟩ => ?_
    exact ⟨n + 1, hu, by omega, (Nat.lt_or_eq_of_le hle).symm.imp id fun hlt => ⟨by omega, hlt⟩, .inr h.missing⟩
  | succ pos ih =>
    have hval : (Fin.ofNat 8 (pos + 1)).val = pos + 1 := Nat.mod_eq_of_lt hpos
    have hbit := walkBit_walks hcfg htotal (h.withBitpos (Fin.ofNat 8 (pos + 1))) (by omega) hleft
      (hval.trans (by omega))
    refine Post.bind (hbit.imp (fun e he => ⟨n, he⟩) fun p hp => hp) fun ⟨last, u⟩ ⟨hu, hbyte, hlast, hle⟩ => ?_
    cases last with
    | true => exact ⟨n + 1, hu, by omega, .inl (hlast.mp rfl), .inr h.missing⟩
    | false =>
      have hne : s.symbolsBy (n + 1) ≠ s.ftTotal := fun he => Bool.false_ne_true (hlast.mpr he)
      exact ih (by omega) ⟨hu, hbyte.trans h.byte, by omega⟩ (by omega)

/-! ### The loop over the input -/

/-- DECODE from `s` finds the input at its end while symbols are missing (R223). -/
structure Truncated (s : State) (e : Raise) : Prop where
  cause : e.cause = .idStreamTrunc
  info : e.info = BitVec.ofNat 32 (s.symbolsBy (8 * s.inputLeft))
  appended : Appended s (s.walkedTo (8 * s.inputLeft)).1 e.state
  inPtr : e.state.inPtr = (s.readPast s.inputLeft).inPtr

/-- Symbols are missing exactly when the loop's comparison of EMITTED and TOTAL says so. -/
theorem Walking.emitted_lt_iff {s t : State} {n j : Nat} (h : Walking s n j t) (htotal : s.ftTotal < 2 ^ 64)
    (hle : s.symbolsBy n ≤ s.ftTotal) : t.walk.emitted < t.walk.total ↔ s.symbolsBy n < s.ftTotal := by
  rw [h.emitted, h.total, BitVec.lt_def, BitVec.toNat_ofNat, BitVec.toNat_ofNat, Nat.mod_eq_of_lt (by omega),
    Nat.mod_eq_of_lt htotal]

/-- DECODE fetches byte `j` (R75, R220). -/
theorem Walking.fetch {s t : State} {n j : Nat} (h : Walking s n j t) (hj : s.inPtr.toNat + j ≤ s.inLen.toNat)
    (hmissing : s.symbolsBy n < s.ftTotal) :
    InByte s n (j + 1) { t.fetch.2 with walk := { t.fetch.2.walk with byte := t.fetch.1, bitpos := 7 } } := by
  refine ⟨⟨h.appended.same, h.cur, h.emitted, h.total, ?_, h.ibuf, h.tree⟩, ?_, hmissing⟩
  · change t.fetch.2.inPtr = _
    rw [State.fetch_snd, State.readPast_inPtr, h.inPtr, ← State.readPast_inPtr, State.readPast_readPast]
  · change t.fetch.1 = _
    rw [State.fetch_fst, h.inPtr, State.readPast_toNat hj, State.ibufAt, h.ibuf, h.appended.epoch, Nat.add_sub_cancel]
    rfl

/-- DECODE from `s` has written the last symbol, which bit `n - 1` of the input ends (R220, R222). -/
structure DecodedAt (s : State) (n : Nat) (t : State) : Prop where
  walking : Walking s n ((n + 7) / 8) t
  inside : n ≤ 8 * s.inputLeft
  complete : s.symbolsBy n = s.ftTotal
  needed : n = 0 ∨ s.symbolsBy (n - 1) < s.ftTotal

/-- Everything DECODE can end in: the last symbol, a full OBUF, or the end of the input. -/
def DecodePost (s : State) : Run State → Prop :=
  Post (fun e => (∃ n, FullAt s n e) ∨ Truncated s e) fun t => ∃ n, DecodedAt s n t

theorem BytesDone.symbolsBy_le {s : State} {n j : Nat} (h : BytesDone s n j) : s.symbolsBy n ≤ s.ftTotal :=
  h.ends.elim Nat.le_of_eq fun hmore => hmore.2.le

/-- The loop stops when no symbol is missing. -/
theorem BytesDone.decodedAt {s t : State} {n j : Nat} (h : BytesDone s n j) (hwalk : Walking s n j t)
    (hj : j ≤ s.inputLeft) (hall : ¬s.symbolsBy n < s.ftTotal) : DecodedAt s n t := by
  have hread := h.read
  have hle := h.symbolsBy_le
  exact ⟨hread ▸ hwalk, by omega, by omega, h.needed⟩

theorem decodeLoop_walks {s t : State} {n j : Nat} (hcfg : s.cfg.legal = true) (htotal : s.ftTotal < 2 ^ 64)
    (hin : s.inPtr.toNat + s.inputLeft ≤ s.inLen.toNat) (k : Nat) (h : Walking s n j t) (hdone : BytesDone s n j)
    (hk : j + k = s.inputLeft) : DecodePost s (decodeLoop k t) := by
  induction k generalizing n j t with
  | zero =>
    unfold decodeLoop
    split
    next hmore =>
      rw [h.emitted_lt_iff htotal hdone.symbolsBy_le] at hmore
      obtain ⟨rfl, -⟩ := hdone.ends.resolve_left hmore.ne
      obtain rfl : j = s.inputLeft := hk
      refine .inr ⟨rfl, ?_, h.appended, h.inPtr⟩
      change t.walk.emitted.extractLsb' 0 32 = _
      rw [h.emitted, extractLsb'_ofNat64]
    next hall =>
      rw [h.emitted_lt_iff htotal hdone.symbolsBy_le] at hall
      exact ⟨n, hdone.decodedAt h (by omega) hall⟩
  | succ k ih =>
    unfold decodeLoop
    split
    next hmore =>
      rw [h.emitted_lt_iff htotal hdone.symbolsBy_le] at hmore
      obtain ⟨rfl, -⟩ := hdone.ends.resolve_left hmore.ne
      have hbyte := walkByte_walks hcfg htotal 7 (by decide) (h.fetch (by omega) hmore) (by omega) (by omega)
      refine Post.bind (hbyte.imp (fun _ he => .inl he) fun _ hu => hu) fun u ⟨m, hu, hm⟩ => ?_
      exact ih hu hm (by omega)
    next hall =>
      rw [h.emitted_lt_iff htotal hdone.symbolsBy_le] at hall
      exact ⟨n, hdone.decodedAt h (by omega) hall⟩

/-! ### DECODE -/

/-- DECODE with a tree of two or more symbols walks the input (R220). -/
theorem decodeBody_walks {s : State} (hcfg : s.cfg.legal = true) (h : s.inputOk) (hv : s.treeValid = true)
    (htree : s.treeOk) (hn : 2 ≤ s.nsym) : DecodePost s (decodeBody s) := by
  obtain ⟨-, -, hle⟩ := id h
  have htotal : s.ftTotal < 2 ^ 64 := by
    obtain ⟨-, -, -, -, hweight, -⟩ := id htree
    rw [← hweight]
    exact (s.node (2 * s.nsym - 2)).w.isLt
  have hleft : s.inPtr.toNat + s.inputLeft = s.inLen.toNat := Nat.add_sub_cancel' hle
  rw [decodeBody, State.inputChecks_ok s h]
  change DecodePost s (if s.treeValid = false then _ else if (nodeAt s.tree.nodes s.tree.root).leaf then _
    else decodeLoop s.inputLeft _)
  rw [if_neg (by simp [hv]), if_neg (by simp [root_not_leaf htree hn])]
  have hstart : s.walkedTo 0 = ([], s.tree.root) := rfl
  refine decodeLoop_walks hcfg htotal hleft.le s.inputLeft (n := 0) (j := 0) ⟨?_, rfl, rfl, rfl, ?_, rfl, rfl⟩
    ⟨rfl, ?_, .inl rfl⟩ (Nat.zero_add _)
  · rw [hstart]
    exact (Appended.nil s).same
  · rw [s.readPast_zero]
  · exact (Nat.eq_or_lt_of_le (Nat.zero_le s.ftTotal)).imp id fun hpos => ⟨rfl, hpos⟩

/-- What an error of DECODE leaves when the bytes `bs` have been written. -/
theorem decode_aborted {s : State} {e : Raise} {bs : List Byte} (hcfg : s.cfg.legal = true)
    (hbody : decodeBody s = .error e) (happ : Appended s bs e.state) :
    ∃ t, exec .decode s = .next t ∧ aborted s t e.cause e.info ∧ t.outPtr = e.state.outPtr ∧ t.inPtr = e.state.inPtr ∧
      t.obufBytes s.outPtr.toNat bs.length = bs ∧ t.outPtr.toNat = s.outPtr.toNat + bs.length ∧
      (∀ k, k < s.outPtr.toNat ∨ s.outPtr.toNat + bs.length ≤ k → t.obufAt k = s.obufAt k) ∧ sameTables s t ∧
      sameHostSide s t := by
  have hexec : exec .decode s = .next (settle (decodeBody s)) := rfl
  have habort := aborted_of_error (decodeBody_reaches s) hbody
  rw [hbody] at hexec habort
  have happ := happ.raise e.cause e.info
  exact ⟨_, hexec, habort, rfl, rfl, happ.obufBytes, happ.outPtr_toNat hcfg, happ.outside,
    sameTables_of_exec hexec (by simp [commandParts]) (by simp [commandParts]) (by simp [commandParts]),
    (commandsLeaveHostSide _ s _ hexec).1⟩

/-- DECODE never writes more symbols than OBUF has room for. -/
theorem Appended.length_le {s t : State} {bs : List Byte} (h : Appended s bs t) :
    bs.length ≤ s.cfg.obufSize - s.outPtr.toNat := by
  rcases h.fits with rfl | hfits
  · exact Nat.zero_le _
  · omega

/-- The walk over all the input. -/
theorem State.walkedTo_all (s : State) : s.walkedTo (8 * s.inputLeft) = s.walked s.inputBits := by
  rw [State.walkedTo, ← s.inputBits_length, List.take_length]

/-- DECODE of an input that ends within a code or between two (R223). -/
theorem decode_truncated {s : State} {msg : List Byte} (hcfg : s.cfg.legal = true) (h : s.inputOk)
    (hv : s.treeValid = true) (htree : s.treeOk) (hn : 2 ≤ s.nsym) (hall : (s.walked s.inputBits).1 = msg)
    (hmore : msg.length < s.ftTotal) (hroom : msg.length ≤ s.cfg.obufSize - s.outPtr.toNat) :
    ∃ e, decodeBody s = .error e ∧ Truncated s e := by
  have hcount : s.symbolsBy (8 * s.inputLeft) = msg.length := by rw [State.symbolsBy, s.walkedTo_all, hall]
  have hpost := decodeBody_walks hcfg h hv htree hn
  match hbody : decodeBody s with
  | .ok u =>
    rw [hbody] at hpost
    obtain ⟨n, -, hin, hcomplete, -⟩ := hpost
    have := s.symbolsBy_mono hin
    omega
  | .error e =>
    rw [hbody] at hpost
    obtain ⟨n, -, -, hin, hnext, hfull, -⟩ | htrunc := hpost
    · have := s.symbolsBy_mono (show n + 1 ≤ 8 * s.inputLeft from hin)
      omega
    · exact ⟨e, rfl, htrunc⟩

/-- DECODE that finds OBUF full at the symbol that bit `n` of the input ends (R77). -/
theorem decode_full {s : State} {n : Nat} (hcfg : s.cfg.legal = true) (h : s.inputOk) (hv : s.treeValid = true)
    (htree : s.treeOk) (hn : 2 ≤ s.nsym) (hin : n < 8 * s.inputLeft) (hnext : s.symbolsBy (n + 1) = s.symbolsBy n + 1)
    (hmore : s.symbolsBy n < s.ftTotal) (hfull : s.symbolsBy n = s.cfg.obufSize - s.outPtr.toNat) :
    ∃ e, decodeBody s = .error e ∧ FullAt s n e := by
  have hall := s.symbolsBy_mono (show n + 1 ≤ 8 * s.inputLeft from hin)
  have hpost := decodeBody_walks hcfg h hv htree hn
  match hbody : decodeBody s with
  | .ok u =>
    rw [hbody] at hpost
    obtain ⟨m, hwalk, hmin, hcomplete, -⟩ := hpost
    have : s.symbolsBy m ≤ s.cfg.obufSize - s.outPtr.toNat := hwalk.appended.length_le
    omega
  | .error e =>
    rw [hbody] at hpost
    obtain ⟨m, hfullAt⟩ | ⟨-, -, happ, -⟩ := hpost
    · obtain rfl : m = n := by
        have hm := hfullAt.next
        have hmfull := hfullAt.full
        rcases Nat.lt_trichotomy m n with hlt | heq | hgt
        · have := s.symbolsBy_mono (show m + 1 ≤ n from hlt)
          omega
        · exact heq
        · have := s.symbolsBy_mono (show n + 1 ≤ m from hgt)
          omega
      exact ⟨e, rfl, hfullAt⟩
    · have : s.symbolsBy (8 * s.inputLeft) ≤ s.cfg.obufSize - s.outPtr.toNat := happ.length_le
      omega

/-- Where the codes of a message and of one symbol more stand at the start of the input, the last bit of that symbol's code
gives it, and not before. -/
theorem walkedTo_message {s : State} (htree : s.treeOk) (hn : 2 ≤ s.nsym) {msg : List Byte} {sym : Byte}
    (hmsg : ∀ b ∈ msg, (s.ftAt b).present = true) (hsym : (s.ftAt sym).present = true) {n : Nat}
    (hbits : (msg ++ [sym]).flatMap s.treeCode <+: s.inputBits) (hlen : ((msg ++ [sym]).flatMap s.treeCode).length = n + 1) :
    (s.walkedTo n).1 = msg ∧ s.symbolsBy (n + 1) = msg.length + 1 := by
  have hne := treeCode_ne_nil htree hn hsym
  have hsplit : (msg ++ [sym]).flatMap s.treeCode = msg.flatMap s.treeCode ++ s.treeCode sym := by
    rw [List.flatMap_append, List.flatMap_singleton]
  have hwhole : s.inputBits.take (n + 1) = (msg ++ [sym]).flatMap s.treeCode := by
    rw [← hlen]
    exact (List.prefix_iff_eq_take.mp hbits).symm
  have hinit : s.inputBits.take n = msg.flatMap s.treeCode ++ (s.treeCode sym).dropLast := by
    rw [← List.dropLast_append_of_ne_nil hne, ← hsplit, List.dropLast_eq_take, hlen, ← hwhole, List.take_take]
    simp
  constructor
  · rw [State.walkedTo, hinit]
    refine walked_message_proper htree hn hmsg hsym (List.dropLast_prefix _) fun he => hne ?_
    have := congrArg List.length he
    rw [List.length_dropLast] at this
    exact List.eq_nil_of_length_eq_zero (by omega)
  · rw [State.symbolsBy, State.walkedTo, hwhole, walked_message htree hn, List.length_append]
    · rfl
    · intro b hb
      rcases List.mem_append.mp hb with hb | hb
      · exact hmsg b hb
      · rwa [List.mem_singleton.mp hb]

/-- Settles O58: the walk over the bits of the message gives the message, and a proper beginning of a code nothing more. -/
theorem decodeAbortsKeepPrefix : Obligations.DecodeAbortsKeepPrefix := by
  constructor
  · intro s msg rest sym hcfg h hv htree hn hbits hmsg hsym hpre hne hmore hroom
    have hall : (s.walked s.inputBits).1 = msg := by
      rw [State.inputBits, hbits]
      exact walked_message_proper htree hn hmsg hsym hpre hne
    have hfits : msg.length ≤ s.cfg.obufSize - s.outPtr.toNat :=
      hroom.elim (fun hnil => hnil ▸ Nat.zero_le _) fun hle => by omega
    obtain ⟨e, hbody, hcause, hinfo, happ, hread⟩ := decode_truncated hcfg h hv htree hn hall hmore hfits
    rw [State.symbolsBy, s.walkedTo_all, hall] at hinfo
    rw [s.walkedTo_all, hall] at happ
    obtain ⟨t, hexec, habort, -, hptr, hbytes, hout, hrest⟩ := decode_aborted hcfg hbody happ
    rw [hcause, hinfo] at habort
    exact ⟨t, hexec, habort, hbytes, hout, (hptr.trans hread).trans (State.readPast_inputLeft h.2.2), hrest⟩
  · intro s msg sym hcfg h hv htree hn hbits hmsg hsym hmore hfull
    obtain ⟨n, hlen⟩ : ∃ n, ((msg ++ [sym]).flatMap s.treeCode).length = n + 1 :=
      Nat.exists_eq_succ_of_ne_zero fun hzero => treeCode_ne_nil htree hn hsym
        (List.flatMap_eq_nil_iff.mp (List.eq_nil_of_length_eq_zero hzero) sym (by simp))
    obtain ⟨hmsgAt, hnext⟩ := walkedTo_message htree hn hmsg hsym hbits hlen
    have hcount : s.symbolsBy n = msg.length := congrArg List.length hmsgAt
    have hin : n < 8 * s.inputLeft := by
      have := hbits.length_le
      rw [hlen, ← State.inputBits, s.inputBits_length] at this
      exact this
    obtain ⟨e, hbody, hcause, hinfo, -, -, -, happ, hread⟩ :=
      decode_full hcfg h hv htree hn hin (by rw [hnext, hcount]) (by rw [hcount]; exact hmore) (by rw [hcount]; exact hfull)
    rw [hmsgAt] at happ
    obtain ⟨t, hexec, habort, hoptr, hptr, hbytes, hout, hrest⟩ := decode_aborted hcfg hbody happ
    rw [hcause, hinfo, ← hoptr] at habort
    refine ⟨t, hexec, habort, hbytes, hout, ?_, hrest⟩
    rw [hptr, hread, hlen, State.readPast_toNat, show (n + 1 + 7) / 8 = n / 8 + 1 by omega]
    have hleft : s.inPtr.toNat + s.inputLeft = s.inLen.toNat := Nat.add_sub_cancel' h.2.2
    omega

end Sys2Proof.Machine
end

section
/-! SUPPORT. The opcode map read both ways: the fields of each command's word, and the words the decoder takes (R100 to R104). -/

namespace Sys2Proof

/-- Bit 8 and bits 7:0 of each command's word (R101, R104). -/
def Instr.fields : Instr → Bool × Byte
  | .nop => (false, 0x00)
  | .clear => (false, 0x01)
  | .count => (false, 0x02)
  | .build => (false, 0x03)
  | .codegen => (false, 0x04)
  | .wrhdr => (false, 0x05)
  | .encode z => (z, 0x06)
  | .rdhdr => (false, 0x07)
  | .decode => (false, 0x08)
  | .compress z => (z, 0x10)
  | .decompress => (false, 0x11)

theorem encode_eq_commandWord (i : Instr) : encode i = commandWord i.fields.1 i.fields.2 := by
  cases i <;> rfl

theorem withoutModifier_eq_ok_iff {z : Bool} {i j : Instr} : withoutModifier z i = .ok j ↔ z = false ∧ i = j := by
  cases z <;> simp [withoutModifier]

/-- The opcode map takes exactly the fields of the commands. -/
theorem decodeFields_eq_ok_iff {z : Bool} {op : Byte} {i : Instr} : decodeFields z op = .ok i ↔ i.fields = (z, op) := by
  constructor
  · intro h
    unfold decodeFields at h
    split at h
    case h_7 | h_10 => cases h; rfl
    case h_12 => exact nomatch h
    all_goals
      obtain ⟨rfl, rfl⟩ := withoutModifier_eq_ok_iff.mp h
      rfl
  · intro h
    cases i <;> cases h <;> rfl

/-- A command word bit by bit (R100). -/
theorem commandWord_getLsbD (z : Bool) (op : Byte) (k : Nat) :
    (commandWord z op).getLsbD k = if k < 8 then op.getLsbD k else decide (k = 8) && z := by
  rw [commandWord, BitVec.getLsbD_setWidth, BitVec.getLsbD_append, BitVec.getLsbD_append, BitVec.getLsbD_zero,
    BitVec.getLsbD_ofBool]
  split
  next hk => simp [show k < 32 by omega]
  next hk =>
    by_cases h8 : k = 8
    · simp [h8]
    · simp [h8, show ¬k - 8 = 0 by omega]

/-- The three fields of a command word. -/
theorem commandWord_fields (z : Bool) (op : Byte) :
    (commandWord z op).extractLsb' 9 23 = 0 ∧ (commandWord z op).getLsbD 8 = z ∧
      (commandWord z op).extractLsb' 0 8 = op := by
  refine ⟨BitVec.eq_of_getLsbD_eq fun k _ => ?_, commandWord_getLsbD z op 8, BitVec.eq_of_getLsbD_eq fun k hk => ?_⟩
  · rw [BitVec.getLsbD_extractLsb', commandWord_getLsbD, if_neg (by omega), decide_eq_false (show ¬9 + k = 8 by omega)]
    simp
  · rw [BitVec.getLsbD_extractLsb', commandWord_getLsbD, if_pos (by omega)]
    simp [hk]

/-- A word without reserved bits is made of its other two fields. -/
theorem commandWord_of_reserved {w : Word} (h : w.extractLsb' 9 23 = 0) :
    commandWord (w.getLsbD 8) (w.extractLsb' 0 8) = w := by
  refine BitVec.eq_of_getLsbD_eq fun k hk => ?_
  rw [commandWord_getLsbD]
  split
  next h8 => simp [h8]
  next h8 =>
    by_cases he : k = 8
    · simp [he]
    · have hbit := congrArg (BitVec.getLsbD · (k - 9)) h
      have hk9 : 9 + (k - 9) = k := by omega
      simp only [BitVec.getLsbD_extractLsb', hk9, show k - 9 < 23 by omega] at hbit
      simpa [he] using hbit.symm

/-- The decoder reads the fields of a word without reserved bits. -/
theorem decode_ok_iff_fields {w : Word} {i : Instr} :
    decode w = .ok i ↔ w.extractLsb' 9 23 = 0 ∧ i.fields = (w.getLsbD 8, w.extractLsb' 0 8) := by
  rw [decode]
  split
  next h => rw [decodeFields_eq_ok_iff, and_iff_right h]
  next h => exact ⟨fun he => (nomatch he), fun hw => absurd hw.1 h⟩

/-- The decoder takes exactly the words of the commands. -/
theorem decode_eq_ok_iff {w : Word} {i : Instr} : decode w = .ok i ↔ encode i = w := by
  rw [decode_ok_iff_fields, encode_eq_commandWord]
  constructor
  · rintro ⟨hres, hfields⟩
    rw [hfields]
    exact commandWord_of_reserved hres
  · rintro rfl
    obtain ⟨hres, hz, hop⟩ := commandWord_fields i.fields.1 i.fields.2
    exact ⟨hres, Prod.ext hz.symm hop.symm⟩

end Sys2Proof

namespace Sys2Proof.Machine

/-- The words of R102: no reserved bit, an opcode of the map, and the modifier only where the opcode takes it. -/
theorem exists_fields_iff (z : Bool) (op : Byte) : (∃ i : Instr, i.fields = (z, op)) ↔
    op ∈ ([0x00, 0x01, 0x02, 0x03, 0x04, 0x05, 0x06, 0x07, 0x08, 0x10, 0x11] : List Byte) ∧
      (z = false ∨ op = 0x06#8 ∨ op = 0x10#8) := by
  constructor
  · rintro ⟨i, hi⟩
    cases i <;> cases hi <;> simp
  · simp only [List.mem_cons, List.not_mem_nil, or_false]
    rintro ⟨hop, rfl | rfl | rfl⟩
    · rcases hop with rfl | rfl | rfl | rfl | rfl | rfl | rfl | rfl | rfl | rfl | rfl
      · exact ⟨.nop, rfl⟩
      · exact ⟨.clear, rfl⟩
      · exact ⟨.count, rfl⟩
      · exact ⟨.build, rfl⟩
      · exact ⟨.codegen, rfl⟩
      · exact ⟨.wrhdr, rfl⟩
      · exact ⟨.encode false, rfl⟩
      · exact ⟨.rdhdr, rfl⟩
      · exact ⟨.decode, rfl⟩
      · exact ⟨.compress false, rfl⟩
      · exact ⟨.decompress, rfl⟩
    · exact ⟨.encode z, rfl⟩
    · exact ⟨.compress z, rfl⟩

/-- A host write to CMD while BUSY = 0 is the acceptance of the word (R264). -/
theorem State.hostWrite_cmd {s : State} (h : s.busy = false) (w : Word) : s.hostWrite 0x00000000#32 .word w = s.accept w :=
  (s.hostWrite_reg w .cmd).trans (State.unlessBusy_of_idle h _)

/-- Settles O2: the words of the map decode as the decoder's own tests say; the three illegal ones are evaluated. -/
theorem specWordsDecode : Obligations.SpecWordsDecode :=
  ⟨decode_word_nop, decode_word_count, decode_word_build, decode_word_wrhdr, decode_word_encode_z, decode_word_decode,
    decode_word_compress, by decide, by decide, by decide⟩

/-- Settles O3: by the fields of the words the decoder takes, and the two ways of acceptance. -/
theorem legalWordsAreExactlyThoseOfTheMap : Obligations.LegalWordsAreExactlyThoseOfTheMap := by
  refine ⟨fun w => ?_, fun s w hb hw => ?_⟩
  · simp only [decode_ok_iff_fields, exists_and_left, exists_fields_iff]
  · have hidle : s.seq = .idle := by simpa [hb] using s.busy_iff
    rw [State.hostWrite_cmd hb]
    obtain ⟨i, hi, -⟩ | ⟨_, -, he⟩ := s.accept_cases w
    · exact absurd hi (hw i)
    · rw [he, hidle]
      rfl

/-- Settles O4: the decoder takes exactly the words of the commands. -/
theorem decodeAndEncodeAgree : Obligations.DecodeAndEncodeAgree :=
  ⟨fun _ _ => decode_eq_ok_iff.mpr rfl, fun _ _ => decode_eq_ok_iff.mp⟩

end Sys2Proof.Machine
end

section
/-! SUPPORT. The code of a symbol in a valid code table as a path of the tree (R127). -/

namespace Sys2Proof.Machine

/-- The path that leads to a leaf ends there. -/
theorem State.LeadsTo.descend {s : State} {sym : Byte} {j : NodeIx} {bits : List Bool} (h : s.LeadsTo sym j bits) :
    (nodeAt s.tree.nodes (s.descend j bits)).leaf = true ∧ (nodeAt s.tree.nodes (s.descend j bits)).sym = sym := by
  induction bits generalizing j with
  | nil => exact h
  | cons b bits ih => exact ih h.2

/-- The path of a leaf leads from the root to it (R127, R190). -/
theorem leadsTo_of_leafCode {s : State} (h : s.treeOk) {i : Nat} (hi : i < s.nsym) {code : List Bool}
    (hcode : leafCode s.tree.nodes (nodeIx i) = some code) : s.LeadsTo (s.node i).sym s.tree.root code := by
  obtain ⟨-, -, -, -, -, ⟨hleaf, -, -⟩, -, -⟩ := id h
  obtain ⟨path, hpath, rfl⟩ := Option.map_eq_some_iff.mp hcode
  exact leadsTo_of_parentWalk h 255 (bits := []) (i := i) (by omega) ⟨(hleaf i hi).1, rfl⟩ hpath

/-- In a valid code table the code of a symbol leads to its leaf. -/
theorem leadsTo_code {s : State} (h : s.treeOk) (hcodes : s.codesOk) {a : Byte} (ha : (codeAt s.codes a).has = true) :
    s.LeadsTo a s.tree.root (codeAt s.codes a).code := by
  obtain ⟨-, -, -, -, -, ⟨-, -, hall⟩, -, -⟩ := id h
  obtain ⟨hhas, hpath⟩ := hcodes
  obtain ⟨i, hi, rfl⟩ := hall a (mem_allSymbols a) ((hhas a (mem_allSymbols a)).1 ▸ ha)
  have hi := List.mem_range.mp hi
  exact leadsTo_of_leafCode h hi (hpath i hi).1

/-- Settles O29: CODEGEN's walk to the root, read backwards, is the descent to the leaf. -/
theorem codeSpellsPathToLeaf : Obligations.CodeSpellsPathToLeaf := by
  intro s ⟨htree, hcodes⟩ hv a ha
  obtain ⟨hvalid, hok⟩ := hcodes hv
  exact (leadsTo_code (htree hvalid).1 hok ha).descend

end Sys2Proof.Machine
end

section
/-! SUPPORT. RDHDR's loop over the entries (R163): the table after each entry, and the ways in which the loop goes on or ends. -/

namespace Sys2Proof.Machine

/-! ### The table after some entries -/

/-- The frequency table after the first `i` entries of a header at IN_PTR (R123, R163). -/
def State.entriesFt (s : State) : Nat → Vector FtEntry 256
  | 0 => Vector.replicate 256 FtEntry.absent
  | i + 1 => (s.entriesFt i).set (s.entrySym i).toNat { present := true, count := s.entryCount i } (byte_toNat_lt _)

/-- The state in which RDHDR from `s` has read the first `i` entries. -/
def State.loaded (s : State) (i : Nat) : State := { s.clearFt.readPast (11 + 9 * i) with ft := s.entriesFt i }

/-- The Symbol bytes of the first `i` entries. -/
def State.entrySyms (s : State) (i : Nat) : List Byte := (List.range i).map s.entrySym

theorem State.entrySyms_succ (s : State) (i : Nat) : s.entrySyms (i + 1) = s.entrySyms i ++ [s.entrySym i] := by
  rw [State.entrySyms, List.range_succ, List.map_append]
  rfl

theorem State.entrySyms_length (s : State) (i : Nat) : (s.entrySyms i).length = i := by simp [State.entrySyms]

/-- The next entry has a new symbol. -/
theorem State.entrySyms_nodup_succ {s : State} {i : Nat} :
    (s.entrySyms (i + 1)).Nodup ↔ (s.entrySyms i).Nodup ∧ s.entrySym i ∉ s.entrySyms i := by
  rw [State.entrySyms_succ, ← List.concat_eq_append, List.nodup_concat, and_comm]

theorem State.loaded_succ (s : State) (i : Nat) :
    s.loaded (i + 1) =
      ((s.loaded i).readPast 9).putFt (s.entrySym i) { present := true, count := s.entryCount i } := by
  have hptr : s.inPtr + BitVec.ofNat 32 (11 + 9 * (i + 1)) =
      s.inPtr + BitVec.ofNat 32 (11 + 9 * i) + BitVec.ofNat 32 9 := by
    rw [BitVec.add_assoc, ← BitVec.ofNat_add]
    rfl
  simp only [State.loaded, State.readPast, State.putFt, State.entriesFt, State.clearFt, hptr]

theorem State.loaded_ftAt_succ (s : State) (i : Nat) (sym : Byte) :
    (s.loaded (i + 1)).ftAt sym =
      if sym = s.entrySym i then { present := true, count := s.entryCount i } else (s.loaded i).ftAt sym := by
  rw [State.loaded_succ, State.ftAt_putFt]
  rfl

theorem State.loaded_ftAt_zero (s : State) (sym : Byte) : (s.loaded 0).ftAt sym = FtEntry.absent :=
  s.ftAt_clearFt sym

/-- A symbol that no entry has is absent. -/
theorem State.loaded_ftAt_absent {s : State} {i : Nat} {sym : Byte} (h : sym ∉ s.entrySyms i) :
    (s.loaded i).ftAt sym = FtEntry.absent := by
  induction i with
  | zero => exact s.loaded_ftAt_zero sym
  | succ i ih =>
    rw [State.entrySyms_succ, List.mem_append, List.mem_singleton, not_or] at h
    rw [State.loaded_ftAt_succ, if_neg h.2, ih h.1]

/-- Each of the first entries stands in the table, where no symbol is repeated. -/
theorem State.loaded_ftAt_entry {s : State} {i j : Nat} (h : (s.entrySyms i).Nodup) (hj : j < i) :
    (s.loaded i).ftAt (s.entrySym j) = { present := true, count := s.entryCount j } := by
  induction i with
  | zero => exact absurd hj (Nat.not_lt_zero j)
  | succ i ih =>
    obtain ⟨hnodup, hnew⟩ := State.entrySyms_nodup_succ.mp h
    rw [State.loaded_ftAt_succ]
    rcases Nat.lt_succ_iff_lt_or_eq.mp hj with hlt | rfl
    · have hne : s.entrySym j ≠ s.entrySym i := fun he =>
        hnew (he ▸ List.mem_map_of_mem (List.mem_range.mpr hlt))
      rw [if_neg hne, ih hnodup hlt]
    · rw [if_pos rfl]

theorem State.loaded_present {s : State} {i : Nat} (h : (s.entrySyms i).Nodup) (sym : Byte) :
    ((s.loaded i).ftAt sym).present = true ↔ sym ∈ s.entrySyms i := by
  constructor
  · intro hp
    by_contra hnot
    rw [State.loaded_ftAt_absent hnot] at hp
    exact Bool.false_ne_true hp
  · intro hmem
    obtain ⟨j, hj, rfl⟩ := List.mem_map.mp hmem
    rw [State.loaded_ftAt_entry h (List.mem_range.mp hj)]

theorem State.presentSyms_nodup (s : State) : s.presentSyms.Nodup :=
  s.presentSyms_sorted.imp BitVec.ne_of_lt

/-- The table holds exactly the entries read. -/
theorem State.loaded_nsym {s : State} {i : Nat} (h : (s.entrySyms i).Nodup) : (s.loaded i).nsym = i := by
  have hperm : (s.loaded i).presentSyms.Perm (s.entrySyms i) :=
    (List.perm_ext_iff_of_nodup (s.loaded i).presentSyms_nodup h).mpr fun sym =>
      ((s.loaded i).mem_presentSyms sym).trans (State.loaded_present h sym)
  rw [State.nsym_eq, hperm.length_eq, s.entrySyms_length]

/-! ### One entry -/

theorem State.loaded_inPtr_toNat {s : State} {i : Nat} (h : s.inPtr.toNat + (11 + 9 * i) ≤ s.inLen.toNat) :
    (s.loaded i).inPtr.toNat = s.inPtr.toNat + (11 + 9 * i) :=
  State.readPast_toNat h

/-- The input ends inside the next entry (R163). -/
theorem readEntries_short {s : State} {i : Nat} (k : Nat) (h : s.inPtr.toNat + (11 + 9 * i) ≤ s.inLen.toNat)
    (hshort : s.inLen.toNat < s.inPtr.toNat + (11 + 9 * (i + 1))) :
    readEntries (k + 1) i (s.loaded i) = .error ⟨.idHdrTrunc, (s.loaded i).inPtr, s.loaded i⟩ := by
  have hptr := State.loaded_inPtr_toNat h
  have hlen : (s.loaded i).inLen = s.inLen := rfl
  rw [readEntries, State.need_error (by rw [hptr, hlen]; omega)]
  rfl

/-- The next entry is whole: it repeats a symbol, or goes to the table (R163). -/
theorem readEntries_whole {s : State} {i : Nat} (k : Nat) (h : s.inPtr.toNat + (11 + 9 * (i + 1)) ≤ s.inLen.toNat) :
    readEntries (k + 1) i (s.loaded i) =
      if ((s.loaded i).ftAt (s.entrySym i)).present then
        .error ⟨.idHdrDup, (0#16 ++ BitVec.ofNat 8 i ++ s.entrySym i).setWidth 32, (s.loaded i).readPast 9⟩
      else readEntries k (i + 1) (s.loaded (i + 1)) := by
  have hptr := State.loaded_inPtr_toNat (s := s) (i := i) (by omega)
  have hlen : (s.loaded i).inLen = s.inLen := rfl
  have hptr' : ((s.loaded i).readPast 1).inPtr.toNat = s.inPtr.toNat + (11 + 9 * i) + 1 :=
    (State.readPast_toNat (by rw [hptr, hlen]; omega)).trans (by rw [hptr])
  have hsym : (s.loaded i).fetch = (s.entrySym i, (s.loaded i).readPast 1) := by
    refine Prod.ext ?_ rfl
    rw [State.fetch_fst, hptr, ← Nat.add_assoc]
    rfl
  have hcount : ((s.loaded i).readPast 1).readLe8 = (s.entryCount i, (s.loaded i).readPast 9) := by
    have hlen' : ((s.loaded i).readPast 1).inLen = s.inLen := rfl
    rw [State.readLe8_inside (by rw [hptr', hlen']; omega), State.readPast_readPast, hptr',
      show s.inPtr.toNat + (11 + 9 * i) + 1 = s.inPtr.toNat + 12 + 9 * i by omega]
    rfl
  rw [readEntries, State.need_ok (by rw [hptr, hlen]; omega), hsym]
  dsimp only [bind, Except.bind]
  rw [hcount]
  dsimp only
  rw [State.loaded_succ]
  rfl

/-- An entry with a new symbol goes to the table. -/
theorem readEntries_new {s : State} {i : Nat} (k : Nat) (h : s.inPtr.toNat + (11 + 9 * (i + 1)) ≤ s.inLen.toNat)
    (hdistinct : (s.entrySyms (i + 1)).Nodup) :
    readEntries (k + 1) i (s.loaded i) = readEntries k (i + 1) (s.loaded (i + 1)) := by
  obtain ⟨-, hnew⟩ := State.entrySyms_nodup_succ.mp hdistinct
  rw [readEntries_whole k h, State.loaded_ftAt_absent hnew]
  rfl

/-! ### The loop -/

/-- The first `i` entries, with distinct symbols, go to the table. -/
theorem readEntries_distinct {s : State} (k : Nat) {i : Nat} (h : s.inPtr.toNat + (11 + 9 * i) ≤ s.inLen.toNat)
    (hdistinct : (s.entrySyms i).Nodup) :
    readEntries (i + k) 0 (s.loaded 0) = readEntries k i (s.loaded i) := by
  induction i generalizing k with
  | zero => rw [Nat.zero_add]
  | succ i ih =>
    obtain ⟨hnodup, -⟩ := State.entrySyms_nodup_succ.mp hdistinct
    rw [Nat.add_right_comm, Nat.add_assoc, ih (k + 1) (by omega) hnodup, readEntries_new k h hdistinct]

/-- A loop that ends well has read all its entries, with distinct symbols. -/
theorem readEntries_ok {s t : State} {k i : Nat} (h : s.inPtr.toNat + (11 + 9 * i) ≤ s.inLen.toNat)
    (hdistinct : (s.entrySyms i).Nodup) (hok : readEntries k i (s.loaded i) = .ok t) :
    t = s.loaded (i + k) ∧ (s.entrySyms (i + k)).Nodup ∧ s.inPtr.toNat + (11 + 9 * (i + k)) ≤ s.inLen.toNat := by
  induction k generalizing i with
  | zero => exact ⟨(Except.ok.inj hok).symm, hdistinct, h⟩
  | succ k ih =>
    rcases Nat.lt_or_ge s.inLen.toNat (s.inPtr.toNat + (11 + 9 * (i + 1))) with hshort | hwhole
    · exact nomatch (readEntries_short k h hshort).symm.trans hok
    · by_cases hmem : s.entrySym i ∈ s.entrySyms i
      · rw [readEntries_whole k hwhole, if_pos ((State.loaded_present hdistinct _).mpr hmem)] at hok
        exact nomatch hok
      · have hdistinct' := State.entrySyms_nodup_succ.mpr ⟨hdistinct, hmem⟩
        rw [readEntries_new k hwhole hdistinct'] at hok
        rw [← Nat.add_assoc, Nat.add_right_comm]
        exact ih hwhole hdistinct' hok

/-! ### RDHDR -/

/-- RDHDR of a header with a good magic and a count of 1 to 256 goes on to the entries (R163). -/
theorem rdhdrBody_eq_readEntries {s : State} (h : s.inputOk) (h11 : s.inPtr.toNat + 11 ≤ s.inLen.toNat)
    (hmagic : s.ibufBytes s.inPtr.toNat 3 = magic) (hmin : 1 ≤ s.symbolCount) (hmax : s.symbolCount ≤ 256) :
    rdhdrBody s = readEntries s.symbolCount 0 (s.loaded 0) := by
  rw [rdhdrBody_eq h (by omega), if_pos hmagic]
  obtain ⟨hlt, -⟩ | ⟨-, hzero, -⟩ | ⟨-, hbig, -⟩ | ⟨-, -, -, he⟩ := rdhdrAfterMagic_cases (s := s) (by omega)
  · omega
  · omega
  · omega
  · exact he

/-- RDHDR ends well only as its loop over the entries does. -/
theorem rdhdrBody_ok {s t : State} (h : s.inputOk) (hok : rdhdrBody s = .ok t) :
    s.inPtr.toNat + 11 ≤ s.inLen.toNat ∧ 1 ≤ s.symbolCount ∧ s.symbolCount ≤ 256 ∧
      readEntries s.symbolCount 0 (s.loaded 0) = .ok t := by
  rcases Nat.lt_or_ge s.inLen.toNat (s.inPtr.toNat + 3) with h3 | h3
  · exact nomatch (rdhdrBody_short h h3).symm.trans hok
  · rw [rdhdrBody_eq h h3] at hok
    split at hok
    · obtain ⟨-, he⟩ | ⟨-, -, he⟩ | ⟨-, -, he⟩ | ⟨h11, hmin, hmax, he⟩ := rdhdrAfterMagic_cases h3
      · exact nomatch he.symm.trans hok
      · exact nomatch he.symm.trans hok
      · exact nomatch he.symm.trans hok
      · exact ⟨h11, hmin, hmax, he.symm.trans hok⟩
    · exact nomatch hok

/-- A completion step without an error is that of a body that ends well (R265, R268). -/
theorem settle_of_err {r : Run State} {t : State} (h : settle r = t) (herr : t.err = false) :
    ∃ u, r = .ok u ∧ t = u.finish := by
  cases r with
  | ok u => exact ⟨u, rfl, h.symm⟩
  | error e =>
    subst h
    exact nomatch herr

@[simp] theorem State.nsym_finish (s : State) : s.finish.nsym = s.nsym := rfl

/-- Settles O34: a loop over the entries that ends well has read the counted number of them. -/
theorem rdhdrEndsAtHeaderEnd : Obligations.RdhdrEndsAtHeaderEnd := by
  intro s t _ h hexec herr
  obtain ⟨u, hbody, rfl⟩ := settle_of_err (Host.Outcome.next.inj hexec) herr
  obtain ⟨h11, hmin, hmax, hloop⟩ := rdhdrBody_ok h hbody
  obtain ⟨hu, hdistinct, hroom⟩ := readEntries_ok (i := 0) h11 List.nodup_nil hloop
  rw [Nat.zero_add] at hu hdistinct hroom
  have hnsym : u.finish.nsym = s.symbolCount := by rw [State.nsym_finish, hu, State.loaded_nsym hdistinct]
  have hptr : u.finish.inPtr.toNat = s.inPtr.toNat + (11 + 9 * s.symbolCount) := by
    rw [State.finish_inPtr, hu, State.loaded_inPtr_toNat hroom]
  rw [hnsym, hptr]
  exact ⟨rfl, rfl, hmin, hmax, (Nat.add_assoc _ _ _).symm, hroom⟩

/-- RDHDR whose first `i` entries have distinct symbols, with more to come. -/
theorem rdhdrBody_at_entry {s : State} {i : Nat} (h : s.inputOk) (hmagic : s.ibufBytes s.inPtr.toNat 3 = magic)
    (hi : i < s.symbolCount) (hmax : s.symbolCount ≤ 256) (hroom : s.inPtr.toNat + (11 + 9 * i) ≤ s.inLen.toNat)
    (hdistinct : (s.entrySyms i).Nodup) : ∃ k, rdhdrBody s = readEntries (k + 1) i (s.loaded i) := by
  obtain ⟨k, hk⟩ := Nat.exists_eq_add_of_lt hi
  rw [rdhdrBody_eq_readEntries h (by omega) hmagic (by omega) hmax, hk, Nat.add_assoc]
  exact ⟨k, readEntries_distinct (k + 1) hroom hdistinct⟩

/-- Settles O56: the loop reaches entry `i`, which is cut off or repeats a symbol of the table. -/
theorem rdhdrRejectsBadEntries : Obligations.RdhdrRejectsBadEntries := by
  intro s i h hmagic hi hmax hleft hdistinct
  have hdistinct : (s.entrySyms i).Nodup := hdistinct
  have hleft' : s.inPtr.toNat + s.inputLeft = s.inLen.toNat := Nat.add_sub_cancel' h.2.2
  obtain ⟨k, hbody⟩ := rdhdrBody_at_entry h hmagic hi hmax (by omega) hdistinct
  have hexec : exec .rdhdr s = .next (settle (rdhdrBody s)) := rfl
  constructor
  · intro hshort
    rw [hbody, readEntries_short k (by omega) (by omega)] at hexec
    exact ⟨_, hexec, ⟨rfl, rfl, rfl, rfl, rfl⟩, rfl, State.loaded_nsym hdistinct,
      fun j hj => State.loaded_ftAt_entry hdistinct hj⟩
  · intro hwhole hdup
    rw [hbody, readEntries_whole k (by omega), if_pos ((State.loaded_present hdistinct _).mpr hdup)] at hexec
    refine ⟨_, hexec, ⟨rfl, rfl, rfl, rfl, ?_⟩, ?_, State.loaded_nsym hdistinct,
      fun j hj => State.loaded_ftAt_entry hdistinct hj⟩
    · exact BitVec.setWidth_eq _
    · change s.inPtr + BitVec.ofNat 32 (11 + 9 * i) + BitVec.ofNat 32 9 = _
      rw [BitVec.add_assoc, ← BitVec.ofNat_add]
      rfl

end Sys2Proof.Machine
end

section
/-! SUPPORT. ENCODE of an input in which a byte has no code (R200). -/

namespace Sys2Proof.Machine

/-- A loop in two parts. -/
theorem encodeLoop_add (j k : Nat) (s : State) : encodeLoop (j + k) s = encodeLoop j s >>= encodeLoop k := by
  induction j generalizing s with
  | zero => rw [Nat.zero_add]; rfl
  | succ j ih =>
    rw [Nat.add_right_comm, encodeLoop, encodeLoop, bind_assoc]
    exact congrArg _ (funext ih)

theorem fullBytes_length (bits : List Bool) : (fullBytes bits).length = bits.length / 8 := by simp [fullBytes]

theorem fullBytes_eq_take (bits : List Bool) : fullBytes bits = (packBits bits).take (bits.length / 8) := by
  rw [packBits_eq]
  split
  · rw [List.take_of_length_le (fullBytes_length bits).le]
  · rw [List.take_left' (fullBytes_length bits)]

/-- While full bytes fit, no piece that writes only them overflows. -/
theorem Overflowed.not_fits {s : State} {out : List Byte} {e : Raise} (h : Overflowed s out e)
    (hfits : out = [] ∨ s.outPtr.toNat + out.length ≤ s.cfg.obufSize) : False := by
  have hshort := h.short
  rcases hfits with rfl | hfits
  · exact Nat.not_lt_zero _ hshort
  · omega

/-- A piece whose output fits goes on. -/
theorem Post.ok_of_fits {α : Type} {s : State} {out : List Byte} {Q : α → Prop} {r : Run α} (h : Post (Overflowed s out) Q r)
    (hfits : out = [] ∨ s.outPtr.toNat + out.length ≤ s.cfg.obufSize) : ∃ a, r = .ok a ∧ Q a := by
  cases r with
  | ok a => exact ⟨a, rfl, h⟩
  | error e => exact (h.not_fits hfits).elim

/-- ENCODE past its start checks. -/
theorem encodeBody_eq {s : State} (h : s.inputOk) (hv : s.codeValid = true) (z : Bool) :
    encodeBody z s = encodeLoop s.inputLeft { s with acc := 0, nacc := 0 } >>= flush z := by
  rw [encodeBody, State.inputChecks_ok s h]
  change (if s.codeValid = false then _ else _) = _
  rw [if_neg (by simp [hv])]
  rfl

/-- The next byte has no code (R200). -/
theorem encodeOne_uncoded {s t : State} {j : Nat} {bits : List Bool} (h : Packing s j bits t)
    (hj : s.inPtr.toNat + j < s.inLen.toNat) (hhas : (codeAt s.codes (s.ibufAt (s.inPtr.toNat + j))).has = false) :
    encodeOne t = .error ⟨.idNoCode, s.inPtr + BitVec.ofNat 32 j, t.readPast 1⟩ := by
  have hbyte : t.fetch.1 = s.ibufAt (s.inPtr.toNat + j) := by
    rw [State.fetch_fst, h.inPtr, State.readPast_toNat hj.le, State.ibufAt, h.ibuf, h.appended.epoch]
    rfl
  have hoffset : t.fetch.2.inPtr - 1 = s.inPtr + BitVec.ofNat 32 j := by
    rw [State.fetch_snd, State.readPast_inPtr, h.inPtr]
    exact BitVec.add_sub_cancel _ _
  change (if (codeAt t.codes t.fetch.1).has = false then (.error ⟨.idNoCode, t.fetch.2.inPtr - 1, t.fetch.2⟩ : Run State)
    else _) = _
  rw [h.codes, hbyte, if_pos hhas, hoffset]
  rfl

/-- The first bytes of the input. -/
theorem State.inputBytes_take {s : State} {k : Nat} (hk : k ≤ s.inputLeft) :
    s.inputBytes.take k = s.ibufBytes s.inPtr.toNat k := by
  rw [State.inputBytes, ← List.map_take, List.take_range, Nat.min_eq_left hk]
  rfl

theorem State.inputBytes_length (s : State) : s.inputBytes.length = s.inputLeft := by simp [State.inputBytes]

theorem State.inputBytes_getElem? {s : State} {k : Nat} (hk : k < s.inputLeft) :
    s.inputBytes[k]? = some (s.ibufAt (s.inPtr.toNat + k)) := by
  simp [State.inputBytes, hk]

/-- ENCODE of an input whose first `j` bytes have codes and whose next byte has none (R200). -/
theorem encodeBody_uncoded {s : State} {j : Nat} (hcfg : s.cfg.legal = true) (h : s.inputOk) (hv : s.codeValid = true)
    (hj : j < s.inputLeft) (hpre : ∀ i < j, (codeAt s.codes (s.ibufAt (s.inPtr.toNat + i))).has = true)
    (hhas : (codeAt s.codes (s.ibufAt (s.inPtr.toNat + j))).has = false)
    (hfits : fullBytes (s.codeBits j) = [] ∨
      s.outPtr.toNat + (fullBytes (s.codeBits j)).length ≤ s.cfg.obufSize) (z : Bool) :
    ∃ t, Packing s j (s.codeBits j) t ∧
      encodeBody z s = .error ⟨.idNoCode, s.inPtr + BitVec.ofNat 32 j, t.readPast 1⟩ := by
  have hleft : s.inPtr.toNat + s.inputLeft = s.inLen.toNat := Nat.add_sub_cancel' h.2.2
  obtain ⟨k, hk⟩ := Nat.exists_eq_add_of_lt hj
  have hloop := encodeLoop_packs (j := 0) j (.start s) hcfg (by omega) fun i hi => hpre i (by omega)
  rw [Nat.zero_add] at hloop
  obtain ⟨t, ht, hpack⟩ := hloop.ok_of_fits hfits
  have hone := encodeOne_uncoded hpack (by omega) hhas
  rw [encodeBody_eq h hv, hk, Nat.add_assoc, encodeLoop_add, ht]
  refine ⟨t, hpack, ?_⟩
  change (encodeOne t >>= encodeLoop k) >>= flush z = _
  rw [hone]
  rfl

/-- Settles O36: the bytes before the uncoded one are packed, and their full bytes written. -/
theorem encodeStopsAtUncodedByte : Obligations.EncodeStopsAtUncodedByte := by
  intro z s pre post b hcfg h hv hin hpre hb hfits
  have hj : pre.length < s.inputLeft := by
    rw [← s.inputBytes_length, hin]
    simp
  have hbytes : s.ibufBytes s.inPtr.toNat pre.length = pre := by
    rw [← State.inputBytes_take hj.le, hin, List.take_left]
  have hbyte : s.ibufAt (s.inPtr.toNat + pre.length) = b := by
    have hget := State.inputBytes_getElem? hj
    rw [hin] at hget
    simpa using hget.symm
  have hbits : s.codeBits pre.length = s.messageBits pre := congrArg s.messageBits hbytes
  have hlen := fullBytes_length (s.messageBits pre)
  obtain ⟨t, hpack, hbody⟩ := encodeBody_uncoded hcfg h hv hj
    (fun i hi => hpre _ (hbytes ▸ List.mem_map_of_mem (List.mem_range.mpr hi))) (hbyte ▸ hb)
    (by rw [hbits, hlen, ← List.length_eq_zero_iff, hlen]; omega) z
  have hexec : exec (.encode z) s = .next (settle (encodeBody z s)) := rfl
  have habort := aborted_of_error (encodeBody_reaches z s) hbody
  have happ : Appended s (fullBytes (s.messageBits pre))
      ((t.readPast 1).raise .idNoCode (s.inPtr + BitVec.ofNat 32 pre.length)) := hbits ▸ hpack.appended.same
  rw [hbody] at hexec habort
  refine ⟨_, hexec, habort, ?_, ?_, ?_⟩
  · change (t.readPast 1).inPtr = _
    rw [State.readPast_inPtr, hpack.inPtr, ← State.readPast_inPtr, State.readPast_readPast, State.readPast_inPtr]
  · exact hlen ▸ happ.outPtr_toNat hcfg
  · rw [← fullBytes_eq_take, ← hlen]
    exact happ.obufBytes

end Sys2Proof.Machine
end

section
/-! SUPPORT. DECODE of a packed message (R125, R220, R222): an error comes only while symbols are missing, and the last symbol is
given by the last bit of the message. -/

namespace Sys2Proof.Machine

/-! ### Errors come while symbols are missing -/

theorem Post.and {ε α : Type} {E E' : ε → Prop} {Q Q' : α → Prop} {r : Except ε α} (h : Post E Q r) (h' : Post E' Q' r) :
    Post (fun e => E e ∧ E' e) (fun a => Q a ∧ Q' a) r := by
  cases r with
  | ok a => exact ⟨h, h'⟩
  | error e => exact ⟨h, h'⟩

/-- DECODE from `s` ends in the error `e` after `n` bits of the input, with symbols missing: OBUF is full at the symbol that bit
`n` ends, or there is no bit `n`. -/
def MissingAt (s : State) (n : Nat) (e : Raise) : Prop :=
  s.symbolsBy n < s.ftTotal ∧ (FullAt s n e ∨ n = 8 * s.inputLeft)

theorem walkByte_missing {s t : State} {n j : Nat} (hcfg : s.cfg.legal = true) (htotal : s.ftTotal < 2 ^ 64) (pos : Nat)
    (hpos : pos < 8) (h : InByte s n j t) (hn : n + (pos + 1) = 8 * j) (hleft : j ≤ s.inputLeft) :
    Post (fun e => ∃ m, MissingAt s m e) (fun _ => True) (walkByte pos t) := by
  have missing : ∀ e, FullAt s n e → ∃ m, MissingAt s m e := fun e he => ⟨n, h.missing, .inl he⟩
  induction pos generalizing n t with
  | zero =>
    have hbit := walkBit_walks hcfg htotal (h.withBitpos 0) (by omega) hleft (show 0 = 7 - n % 8 by omega)
    exact Post.bind (hbit.imp missing fun _ hp => hp) fun _ _ => trivial
  | succ pos ih =>
    have hval : (Fin.ofNat 8 (pos + 1)).val = pos + 1 := Nat.mod_eq_of_lt hpos
    have hbit := walkBit_walks hcfg htotal (h.withBitpos (Fin.ofNat 8 (pos + 1))) (by omega) hleft
      (hval.trans (by omega))
    refine Post.bind (hbit.imp missing fun _ hp => hp) fun ⟨last, u⟩ ⟨hu, hbyte, hlast, hle⟩ => ?_
    cases last with
    | true => trivial
    | false =>
      have hne : s.symbolsBy (n + 1) ≠ s.ftTotal := fun he => Bool.false_ne_true (hlast.mpr he)
      have hnext : InByte s (n + 1) j u := ⟨hu, hbyte.trans h.byte, by omega⟩
      exact ih (by omega) hnext (by omega) fun e he => ⟨n + 1, hnext.missing, .inl he⟩

theorem decodeLoop_missing {s t : State} {n j : Nat} (hcfg : s.cfg.legal = true) (htotal : s.ftTotal < 2 ^ 64)
    (hin : s.inPtr.toNat + s.inputLeft ≤ s.inLen.toNat) (k : Nat) (h : Walking s n j t) (hdone : BytesDone s n j)
    (hk : j + k = s.inputLeft) : Post (fun e => ∃ m, MissingAt s m e) (fun _ => True) (decodeLoop k t) := by
  induction k generalizing n j t with
  | zero =>
    unfold decodeLoop
    split
    next hmore =>
      rw [h.emitted_lt_iff htotal hdone.symbolsBy_le] at hmore
      obtain ⟨hn, -⟩ := hdone.ends.resolve_left hmore.ne
      exact ⟨n, hmore, .inr (hn.trans (congrArg (8 * ·) hk))⟩
    next => trivial
  | succ k ih =>
    unfold decodeLoop
    split
    next hmore =>
      rw [h.emitted_lt_iff htotal hdone.symbolsBy_le] at hmore
      obtain ⟨hn, -⟩ := hdone.ends.resolve_left hmore.ne
      have hfetch := h.fetch (by omega) hmore
      have hwalks := walkByte_walks hcfg htotal 7 (by decide) hfetch (by omega) (by omega)
      have hmissing := walkByte_missing hcfg htotal 7 (by decide) hfetch (by omega) (by omega)
      exact Post.bind ((hwalks.and hmissing).imp (fun _ he => he.2) fun _ hu => hu.1)
        fun u ⟨m, hu, hm⟩ => ih hu hm (by omega)
    next => trivial

/-- The state in which DECODE starts its walk (R220). -/
def State.walkStart (s : State) : State :=
  { s with walk := { s.walk with total := BitVec.ofNat 64 s.ftTotal, emitted := 0, cur := s.tree.root } }

theorem Walking.start (s : State) : Walking s 0 0 s.walkStart :=
  ⟨(Appended.nil s).same, rfl, rfl, rfl, (congrArg State.inPtr s.readPast_zero).symm, rfl, rfl⟩

theorem BytesDone.start (s : State) : BytesDone s 0 0 :=
  ⟨rfl, (Nat.eq_or_lt_of_le (Nat.zero_le s.ftTotal)).imp id fun hpos => ⟨rfl, hpos⟩, .inl rfl⟩

/-- DECODE with an internal root, past its checks. -/
theorem decodeBody_eq_loop {s : State} (h : s.inputOk) (hv : s.treeValid = true)
    (hroot : (nodeAt s.tree.nodes s.tree.root).leaf = false) : decodeBody s = decodeLoop s.inputLeft s.walkStart := by
  rw [decodeBody, State.inputChecks_ok s h]
  change (if s.treeValid = false then _ else if (nodeAt s.tree.nodes s.tree.root).leaf then _ else _) = _
  rw [if_neg (by simp [hv]), if_neg (by simp [hroot])]
  rfl

theorem State.treeOk.ftTotal_lt {s : State} (h : s.treeOk) : s.ftTotal < 2 ^ 64 := by
  obtain ⟨-, -, -, -, hweight, -⟩ := h
  rw [← hweight]
  exact (s.node (2 * s.nsym - 2)).w.isLt

theorem decodeBody_missing {s : State} (hcfg : s.cfg.legal = true) (h : s.inputOk) (hv : s.treeValid = true)
    (htree : s.treeOk) (hn : 2 ≤ s.nsym) : Post (fun e => ∃ m, MissingAt s m e) (fun _ => True) (decodeBody s) := by
  rw [decodeBody_eq_loop h hv (root_not_leaf htree hn)]
  exact decodeLoop_missing hcfg htree.ftTotal_lt (Nat.add_sub_cancel' h.2.2).le s.inputLeft (.start s) (.start s)
    (Nat.zero_add _)

/-! ### Packed messages -/

theorem packBits_length (bits : List Bool) : (packBits bits).length = (bits.length + 7) / 8 := by simp [packBits]

/-- Unpacking gives the packed bits back, with the padding after them (R125, R126). -/
theorem unpackBits_packBits_prefix (bits : List Bool) : bits <+: unpackBits (packBits bits) := by
  refine List.prefix_iff_getElem?.mpr fun i hi => ?_
  have hbyte : (packBits bits)[i / 8]? = some (packedByte bits (i / 8)) := by
    simp [packBits, show i / 8 < (bits.length + 7) / 8 by omega]
  have hget := unpackBits_getElem? (packBits bits) (i / 8) (Nat.mod_lt i (by decide : 8 > 0))
  rw [Nat.div_add_mod, hbyte, Option.map_some, packedByte_getLsbD _ _ (by omega)] at hget
  rw [hget, show 8 * (i / 8) + (7 - (7 - i % 8)) = i by omega, List.getD_eq_getElem _ _ hi]

/-- Packed bits in IBUF at IN_PTR begin the bits of the input. -/
theorem inputBits_prefix {s : State} {bits : List Bool} (hin : s.inPtr.toNat + (packBits bits).length ≤ s.inLen.toNat)
    (hbytes : s.ibufBytes s.inPtr.toNat (packBits bits).length = packBits bits) : bits <+: s.inputBits := by
  have hpre : packBits bits <+: s.inputBytes := by
    rw [List.prefix_iff_eq_take, State.inputBytes_take (by rw [State.inputLeft]; omega), hbytes]
  obtain ⟨more, hmore⟩ := hpre
  refine (unpackBits_packBits_prefix bits).trans ⟨unpackBits more, ?_⟩
  rw [State.inputBits, ← hmore]
  exact List.flatMap_append.symm

/-! ### The whole message -/

/-- After exactly the bits of a message its symbols are given, and the last of them not before (R220, R222). -/
theorem message_end {s : State} (htree : s.treeOk) (hn : 2 ≤ s.nsym) {msg : List Byte}
    (hmsg : ∀ b ∈ msg, (s.ftAt b).present = true) (hbits : msg.flatMap s.treeCode <+: s.inputBits) :
    (s.walkedTo (msg.flatMap s.treeCode).length).1 = msg ∧
      ∀ n < (msg.flatMap s.treeCode).length, s.symbolsBy n < msg.length := by
  constructor
  · rw [State.walkedTo, ← List.prefix_iff_eq_take.mp hbits, walked_message htree hn hmsg]
  · intro n hlt
    rcases List.eq_nil_or_concat msg with rfl | ⟨init, sym, rfl⟩
    · exact absurd hlt (Nat.not_lt_zero n)
    · rw [List.concat_eq_append] at hmsg hbits hlt ⊢
      obtain ⟨last, hlast⟩ := Nat.exists_eq_succ_of_ne_zero (Nat.ne_zero_of_lt hlt)
      obtain ⟨hinit, -⟩ := walkedTo_message htree hn (fun b hb => hmsg b (List.mem_append_left _ hb))
        (hmsg sym (List.mem_append_right _ (List.mem_singleton_self sym))) hbits hlast
      calc s.symbolsBy n ≤ s.symbolsBy last := s.symbolsBy_mono (by omega)
        _ = init.length := congrArg List.length hinit
        _ < (init ++ [sym]).length := by simp

/-- DECODE of a message whose codes stand at the start of the input, with room for it in OBUF. -/
theorem decodeBody_message {s : State} (hcfg : s.cfg.legal = true) (h : s.inputOk) (hv : s.treeValid = true)
    (htree : s.treeOk) (hn : 2 ≤ s.nsym) {msg : List Byte} (hlen : msg.length = s.ftTotal)
    (hmsg : ∀ b ∈ msg, (s.ftAt b).present = true) (hbits : msg.flatMap s.treeCode <+: s.inputBits)
    (hroom : msg = [] ∨ s.outPtr.toNat + msg.length ≤ s.cfg.obufSize) :
    ∃ t, decodeBody s = .ok t ∧ Appended s msg t ∧
      t.inPtr = (s.readPast (((msg.flatMap s.treeCode).length + 7) / 8)).inPtr := by
  obtain ⟨hwhole, hbefore⟩ := message_end htree hn hmsg hbits
  have hcount : s.symbolsBy (msg.flatMap s.treeCode).length = s.ftTotal := hlen ▸ congrArg List.length hwhole
  have hpost := (decodeBody_walks hcfg h hv htree hn).and (decodeBody_missing hcfg h hv htree hn)
  match hbody : decodeBody s with
  | .ok t =>
    rw [hbody] at hpost
    obtain ⟨⟨n, hwalk, -, hcomplete, hneeded⟩, -⟩ := hpost
    have hge : (msg.flatMap s.treeCode).length ≤ n := by
      by_contra hlt
      exact (hbefore n (Nat.lt_of_not_le hlt)).ne (hcomplete.trans hlen.symm)
    have hle : n ≤ (msg.flatMap s.treeCode).length := by
      rcases hneeded with rfl | hmissing
      · exact Nat.zero_le _
      · by_contra hgt
        have := s.symbolsBy_mono (show (msg.flatMap s.treeCode).length ≤ n - 1 by omega)
        omega
    obtain rfl := Nat.le_antisymm hle hge
    exact ⟨t, rfl, hwhole ▸ hwalk.appended, hwalk.inPtr⟩
  | .error e =>
    rw [hbody] at hpost
    obtain ⟨-, n, hmissing, hfull | rfl⟩ := hpost
    · have hroom' : msg.length ≤ s.cfg.obufSize - s.outPtr.toNat :=
        hroom.elim (fun hnil => hnil ▸ Nat.zero_le _) fun hle => by omega
      have := hfull.full
      omega
    · have hin := hbits.length_le
      rw [s.inputBits_length] at hin
      have := s.symbolsBy_mono hin
      omega

/-- A command whose pseudocode has run to its end finishes (R268). -/
theorem finished_of_reaches {s u : State} (h : Reaches s u) : finished s u.finish := by
  obtain ⟨herr, hcause, hinfo⟩ : u.err = s.err ∧ u.errCause = s.errCause ∧ u.errInfo = s.errInfo :=
    Reaches.keeps (P := fun t => t.err = s.err ∧ t.errCause = s.errCause ∧ t.errInfo = s.errInfo)
      (fun hmove ht => by cases hmove <;> exact ht) h ⟨rfl, rfl, rfl⟩
  exact ⟨rfl, rfl, herr, hcause, hinfo⟩

theorem finished_of_ok {s u : State} {r : Run State} (hr : RunReaches id s r) (h : r = .ok u) : finished s u.finish := by
  subst h
  exact finished_of_reaches hr

/-- Settles O40: the bits of the message are the first of the input, and DECODE stops at the last of them. -/
theorem decodeReadsMessageBack : Obligations.DecodeReadsMessageBack := by
  rintro s msg _ hcfg h hv htree hn hlen hmsg rfl hin hbytes hroom
  obtain ⟨u, hbody, happ, hread⟩ := decodeBody_message hcfg h hv htree hn hlen hmsg (inputBits_prefix hin hbytes) hroom
  have hexec : exec .decode s = .next u.finish := congrArg (fun r => Host.Outcome.next (settle r)) hbody
  have happ := happ.finish
  rw [← packBits_length] at hread
  refine ⟨_, hexec, finished_of_ok (decodeBody_reaches s) hbody, happ.obufBytes, happ.outPtr_toNat hcfg, ?_, happ.outside,
    sameTables_of_exec hexec (by simp [commandParts]) (by simp [commandParts]) (by simp [commandParts]),
    (commandsLeaveHostSide _ s _ hexec).1⟩
  rw [State.finish_inPtr, hread, State.readPast_toNat hin]

end Sys2Proof.Machine
end

section
/-! SUPPORT. A step command does the same whether or not another has just completed: the pseudocode reads none of what a
completion step writes (SEQ, DONE, the host's turns), so every piece commutes with it (R240, R268). -/

namespace Sys2Proof.Machine

/-- A result that has been completed in the state it ends in; `f` completes its value. -/
def Run.complete {α : Type} (f : α → α) : Run α → Run α
  | .ok a => .ok (f a)
  | .error e => .error { e with state := e.state.finish }

/-- `r'` is `r` run from a completed state. -/
abbrev AfterFinish {α : Type} (f : α → α) (r' r : Run α) : Prop := r' = Run.complete f r

section AfterFinish
variable {α β : Type} {f : α → α} {g : β → β}

theorem AfterFinish.bind {r' r : Run α} {k' k : α → Run β} (hr : AfterFinish f r' r)
    (hk : ∀ a, AfterFinish g (k' (f a)) (k a)) : AfterFinish g (r' >>= k') (r >>= k) := by
  subst hr
  cases r with
  | ok a => exact hk a
  | error e => rfl

theorem AfterFinish.ite {p : Prop} [Decidable p] {a' a b' b : Run α} (ha : AfterFinish f a' a) (hb : AfterFinish f b' b) :
    AfterFinish f (if p then a' else b') (if p then a else b) := by
  split
  · exact ha
  · exact hb

end AfterFinish

theorem inputChecks_finish (s : State) : AfterFinish id s.finish.inputChecks s.inputChecks := .ite rfl (.ite rfl rfl)

theorem emit_finish (v : Byte) (s : State) : AfterFinish State.finish (s.finish.emit v) (s.emit v) := .ite rfl rfl

theorem emitMany_finish (bs : List Byte) (s : State) :
    AfterFinish State.finish (State.emitMany bs s.finish) (State.emitMany bs s) := by
  induction bs generalizing s with
  | nil => rfl
  | cons b bs ih => exact (emit_finish b s).bind ih

/-! ### BUILD, CODEGEN, WRHDR -/

theorem addLeaves_finish (s : State) (syms : List Byte) (k : Nat) (a : Nodes) :
    addLeaves s.finish syms k a = addLeaves s syms k a := by
  induction syms generalizing k a with
  | nil => rfl
  | cons sym rest ih =>
    rw [addLeaves, addLeaves, ih, ih]
    rfl

theorem buildTree_finish (s : State) (n : Nat) : buildTree s.finish n = buildTree s n := by
  rw [buildTree, buildTree, addLeaves_finish]
  rfl

theorem buildBody_finish (s : State) : AfterFinish State.finish (buildBody s.finish) (buildBody s) :=
  .ite rfl (.ite rfl (congrArg (fun x : List NodeIx × Tree =>
    (Except.ok { s.invalidateTree.finish with tree := x.2, mergeQ := x.1, treeValid := true } : Run State))
    (buildTree_finish s.invalidateTree s.nsym)))

theorem wrhdrBody_finish (s : State) : AfterFinish State.finish (wrhdrBody s.finish) (wrhdrBody s) := by
  rw [wrhdrBody_eq_emitMany, wrhdrBody_eq_emitMany]
  exact emitMany_finish s.headerBytes s

/-! ### ENCODE -/

theorem pushBit_finish (b : Bool) (s : State) : AfterFinish State.finish (pushBit b s.finish) (pushBit b s) :=
  .ite ((emit_finish _ { s with acc := writeBit s.acc (7 - s.nacc.val) b, nacc := s.nacc + 1 }).bind fun _ => rfl) rfl

theorem pushBits_finish (bs : List Bool) (s : State) : AfterFinish State.finish (pushBits bs s.finish) (pushBits bs s) := by
  induction bs generalizing s with
  | nil => rfl
  | cons b bs ih => exact (pushBit_finish b s).bind ih

theorem encodeLoop_finish (k : Nat) (s : State) :
    AfterFinish State.finish (encodeLoop k s.finish) (encodeLoop k s) := by
  induction k generalizing s with
  | zero => rfl
  | succ k ih =>
    have hone : AfterFinish State.finish (encodeOne s.finish) (encodeOne s) := .ite rfl (pushBits_finish _ s.fetch.2)
    exact hone.bind ih

theorem flush_finish (z : Bool) (s : State) : AfterFinish State.finish (flush z s.finish) (flush z s) :=
  .ite (AfterFinish.bind (f := State.finish) (.ite (emit_finish s.acc s) rfl) fun _ => rfl)
    (AfterFinish.bind (f := State.finish) (.ite (emit_finish s.acc s) rfl) fun _ => rfl)

theorem encodeBody_finish (z : Bool) (s : State) :
    AfterFinish State.finish (encodeBody z s.finish) (encodeBody z s) :=
  (inputChecks_finish s).bind fun _ =>
    .ite rfl ((encodeLoop_finish _ { s with acc := 0, nacc := 0 }).bind fun t => flush_finish z t)

/-! ### DECODE -/

theorem emitRoot_finish (sym : Byte) (k : Nat) (s : State) :
    AfterFinish State.finish (emitRoot sym k s.finish) (emitRoot sym k s) := by
  induction k generalizing s with
  | zero => rfl
  | succ k ih =>
    exact (emit_finish sym s).bind fun t => ih { t with walk := { t.walk with emitted := t.walk.emitted + 1 } }

theorem walkBit_finish (s : State) : AfterFinish (Prod.map id State.finish) (walkBit s.finish) (walkBit s) :=
  .ite (AfterFinish.bind (emit_finish _ { s with walk := { s.walk with cur := _ } }) fun _ => rfl) rfl

theorem walkByte_finish (pos : Nat) (s : State) :
    AfterFinish State.finish (walkByte pos s.finish) (walkByte pos s) := by
  induction pos generalizing s with
  | zero => exact (walkBit_finish { s with walk := { s.walk with bitpos := 0 } }).bind fun _ => rfl
  | succ pos ih =>
    exact (walkBit_finish { s with walk := { s.walk with bitpos := Fin.ofNat 8 (pos + 1) } }).bind
      fun p => .ite rfl (ih p.2)

theorem decodeLoop_finish (k : Nat) (s : State) :
    AfterFinish State.finish (decodeLoop k s.finish) (decodeLoop k s) := by
  induction k generalizing s with
  | zero => exact .ite rfl rfl
  | succ k ih =>
    exact .ite ((walkByte_finish 7
      { s.fetch.2 with walk := { s.fetch.2.walk with byte := s.fetch.1, bitpos := 7 } }).bind ih) rfl

theorem decodeBody_finish (s : State) : AfterFinish State.finish (decodeBody s.finish) (decodeBody s) :=
  (inputChecks_finish s).bind fun _ => .ite rfl (.ite
    (emitRoot_finish _ _ { s with walk := { s.walk with total := BitVec.ofNat 64 s.ftTotal, emitted := 0 } })
    (decodeLoop_finish _ s.walkStart))

/-! ### One step command after another -/

/-- A step command that ends well after another has completed ends well without that completion, and as the same state. -/
theorem ok_of_finish {r' r : Run State} {t : State} (hr : AfterFinish State.finish r' r)
    (h : Host.Outcome.next (φ := Fault) (ρ := Refusal) (settle r') = .next t) (herr : t.err = false) :
    ∃ u, r = .ok u ∧ t = u.finish := by
  obtain ⟨u', hu', rfl⟩ := settle_of_err (Host.Outcome.next.inj h) herr
  cases r with
  | ok u =>
    obtain rfl := Except.ok.inj (hr.symm.trans hu')
    exact ⟨u, rfl, rfl⟩
  | error e => exact nomatch hr.symm.trans hu'

/-- A result that may be stuck, completed in the state it ends in. -/
def Stop.complete : Except Stop State → Except Stop State
  | .ok s => .ok s.finish
  | .error (.raised e) => .error (.raised { e with state := e.state.finish })
  | .error (.stuck f) => .error (.stuck f)

theorem codegenBody_finish (s : State) : codegenBody s.finish = Stop.complete (codegenBody s) := by
  cases hv : s.treeValid with
  | false => rw [codegenBody_of_invalid hv, codegenBody_of_invalid (s := s.finish) hv]; rfl
  | true =>
    cases hc : s.arenaCodes with
    | none => rw [codegenBody_of_none hv hc, codegenBody_of_none (s := s.finish) hv hc]; rfl
    | some codes => rw [codegenBody_of_some hv hc, codegenBody_of_some (s := s.finish) hv hc]; rfl

theorem codegenBody_ok_of_finish {s t : State} (h : exec .codegen s.finish = .next t) (herr : t.err = false) :
    ∃ u, codegenBody s = .ok u ∧ t = u.finish := by
  replace h : settleStop (codegenBody s.finish) = .next t := h
  rw [codegenBody_finish] at h
  match hbody : codegenBody s with
  | .ok u =>
    rw [hbody] at h
    exact ⟨u, rfl, (Host.Outcome.next.inj h).symm⟩
  | .error (.raised e) =>
    rw [hbody] at h
    obtain rfl := Host.Outcome.next.inj h
    exact nomatch herr
  | .error (.stuck f) =>
    rw [hbody] at h
    exact nomatch h

theorem compressBody_of_steps {z : Bool} {s u1 u2 u3 u4 u5 : State} (h1 : countBody s.rewind = .ok u1)
    (h2 : buildBody u1 = .ok u2) (h3 : codegenBody u2 = .ok u3) (h4 : wrhdrBody u3 = .ok u4)
    (h5 : encodeBody z { u4 with inPtr := 0 } = .ok u5) : compressBody z s = .ok u5 := by
  rw [compressBody, h1]
  change (liftRun (buildBody u1) >>= _) = _
  rw [h2]
  change (codegenBody u2 >>= _) = _
  rw [h3]
  change (liftRun (wrhdrBody u3) >>= _) = _
  rw [h4]
  exact congrArg liftRun h5

theorem decompressBody_of_steps {s u1 u2 u3 : State} (h1 : rdhdrBody s.rewind = .ok u1) (h2 : buildBody u1 = .ok u2)
    (h3 : decodeBody u2 = .ok u3) : decompressBody s = .ok u3 := by
  rw [decompressBody, h1]
  change (buildBody u1 >>= decodeBody) = _
  rw [h2]
  exact h3

/-- Settles O43: each step command ends well where its piece of the whole operation does, and in the same state. -/
theorem wholeOperationsAreTheirSteps : Obligations.WholeOperationsAreTheirSteps := by
  constructor
  · intro z s s1 s2 s3 s4 s5 _ h1 h2 h3 h4 h5 e1 e2 e3 e4 e5
    obtain ⟨u1, hu1, rfl⟩ := settle_of_err (Host.Outcome.next.inj h1) e1
    obtain ⟨u2, hu2, rfl⟩ := ok_of_finish (buildBody_finish u1) h2 e2
    obtain ⟨u3, hu3, rfl⟩ := codegenBody_ok_of_finish h3 e3
    obtain ⟨u4, hu4, rfl⟩ := ok_of_finish (wrhdrBody_finish u3) h4 e4
    obtain ⟨u5, hu5, rfl⟩ := ok_of_finish (encodeBody_finish z { u4 with inPtr := 0 }) h5 e5
    exact congrArg settleStop (compressBody_of_steps hu1 hu2 hu3 hu4 hu5)
  · intro s s1 s2 s3 _ h1 h2 h3 e1 e2 e3
    obtain ⟨u1, hu1, rfl⟩ := settle_of_err (Host.Outcome.next.inj h1) e1
    obtain ⟨u2, hu2, rfl⟩ := ok_of_finish (buildBody_finish u1) h2 e2
    obtain ⟨u3, hu3, rfl⟩ := ok_of_finish (decodeBody_finish u2) h3 e3
    exact congrArg (fun r => Host.Outcome.next (settle r)) (decompressBody_of_steps hu1 hu2 hu3)

end Sys2Proof.Machine
end

section
/-! SUPPORT. COUNT (R142, R143): the table after some bytes of the input. -/

namespace Sys2Proof.Machine

/-! ### One byte more -/

theorem State.ibufBytes_succ (s : State) (i n : Nat) : s.ibufBytes i (n + 1) = s.ibufBytes i n ++ [s.ibufAt (i + n)] := by
  rw [State.ibufBytes, List.range_succ, List.map_append]
  rfl

theorem State.ibufBytes_length (s : State) (i n : Nat) : (s.ibufBytes i n).length = n := by simp [State.ibufBytes]

/-- The entry of a symbol in the table of a byte sequence (R143). -/
def countEntry (bytes : List Byte) (sym : Byte) : FtEntry where
  present := bytes.contains sym
  count := BitVec.ofNat 64 (bytes.count sym)

theorem countEntry_toNat {bytes : List Byte} (h : bytes.length < 2 ^ 64) (sym : Byte) :
    (countEntry bytes sym).count.toNat = bytes.count sym :=
  Nat.mod_eq_of_lt (List.count_le_length.trans_lt h)

theorem countEntry_snoc (bytes : List Byte) (b sym : Byte) :
    countEntry (bytes ++ [b]) sym =
      if sym = b then { present := true, count := (countEntry bytes b).count + 1 } else countEntry bytes sym := by
  unfold countEntry
  split
  next h =>
    subst h
    simp [BitVec.ofNat_add]
  next h =>
    have hne : ¬b = sym := fun he => h he.symm
    simp [List.count_append, h, hne]

/-- COUNT from `s` has counted the first `j` bytes of the input. -/
structure Counted (s : State) (j : Nat) (t : State) : Prop where
  rest : t = { s.clearFt.readPast j with ft := t.ft }
  table : ∀ sym, t.ftAt sym = countEntry (s.ibufBytes s.inPtr.toNat j) sym

theorem Counted.start (s : State) : Counted s 0 s.clearFt :=
  ⟨s.clearFt.readPast_zero.symm, fun sym => s.ftAt_clearFt sym⟩

theorem Counted.countOne {s t : State} {j : Nat} (h : Counted s j t) (hj : s.inPtr.toNat + j < s.inLen.toNat) :
    Counted s (j + 1) (countOne t) := by
  have hbyte : t.fetch.1 = s.ibufAt (s.inPtr.toNat + j) := by
    rw [State.fetch_fst, h.rest]
    exact congrArg s.ibufAt (State.readPast_toNat hj.le)
  have hone : Machine.countOne t =
      (t.readPast 1).putFt t.fetch.1 { present := true, count := (t.ftAt t.fetch.1).count + 1 } := rfl
  refine ⟨?_, fun sym => ?_⟩
  · obtain ⟨ft, rfl⟩ : ∃ ft, t = { s.clearFt.readPast j with ft := ft } := ⟨_, h.rest⟩
    rw [← s.clearFt.readPast_readPast j 1]
    rfl
  · rw [hone, State.ftAt_putFt, hbyte, State.ibufBytes_succ, countEntry_snoc, h.table]
    exact if_congr Iff.rfl rfl (h.table sym)

theorem Counted.loop {s t : State} {j : Nat} (k : Nat) (h : Counted s j t)
    (hk : s.inPtr.toNat + (j + k) ≤ s.inLen.toNat) : Counted s (j + k) (countLoop k t) := by
  induction k generalizing j t with
  | zero => exact h
  | succ k ih =>
    rw [show j + (k + 1) = j + 1 + k by omega] at hk ⊢
    exact ih (h.countOne (by omega)) hk

/-- COUNT past its start check counts all that is left. -/
theorem countBody_counts {s : State} (h : s.inputOk) : ∃ t, countBody s = .ok t ∧ Counted s s.inputLeft t := by
  have hleft : s.inPtr.toNat + s.inputLeft = s.inLen.toNat := Nat.add_sub_cancel' h.2.2
  have hloop := (Counted.start s).loop s.inputLeft (by omega)
  rw [Nat.zero_add] at hloop
  refine ⟨_, ?_, hloop⟩
  rw [countBody, State.inputChecks_ok s h]
  rfl

/-! ### The table of a byte sequence -/

section Table
variable {t : State} {bytes : List Byte} (h : ∀ sym, t.ftAt sym = countEntry bytes sym)
include h

theorem presentSyms_perm_dedup : t.presentSyms.Perm bytes.dedup := by
  refine (List.perm_ext_iff_of_nodup t.presentSyms_nodup bytes.nodup_dedup).mpr fun sym => ?_
  rw [t.mem_presentSyms, h, List.mem_dedup]
  exact List.contains_iff_mem

/-- FT_NSYM is the number of distinct bytes (R143). -/
theorem nsym_of_counts : t.nsym = bytes.dedup.length := by
  rw [t.nsym_eq, (presentSyms_perm_dedup h).length_eq]

/-- The counts sum to the number of bytes (R143). -/
theorem ftTotal_of_counts (hlen : bytes.length < 2 ^ 64) : t.ftTotal = bytes.length := by
  have hcount : ∀ sym, (t.ftAt sym).count.toNat = bytes.count sym := fun sym => by
    rw [h, countEntry_toNat hlen]
  rw [t.ftTotal_eq, ((presentSyms_perm_dedup h).map _).sum_eq]
  simp only [hcount]
  exact bytes.sum_map_count_dedup_eq_length

end Table

end Sys2Proof.Machine
end

section
/-! SUPPORT. COMPRESS (R242) up to the codes of its input, and the length of what it writes then (R316). -/

namespace Sys2Proof.Machine

/-! ### The codes of the input -/

/-- `u` is `s` after the input bytes `bytes` have been read and counted, with the tree and the codes of their table. -/
structure CodedInput (s : State) (bytes : List Byte) (u : State) : Prop where
  rest : u = { s with
    inPtr := s.inLen, outPtr := 0, treeValid := true, codeValid := true, ft := u.ft, tree := u.tree, mergeQ := u.mergeQ,
    codes := u.codes }
  tables : u.TablesInv
  table : ∀ sym, u.ftAt sym = countEntry bytes sym

/-- Back at the start of the input, as COMPRESS before ENCODE (R242). -/
def State.restarted (s : State) : State := { s with inPtr := 0 }

section CodedInput
variable {s u : State} {bytes : List Byte} (hu : CodedInput s bytes u)
include hu

theorem CodedInput.cfg : u.cfg = s.cfg := (congrArg State.cfg hu.rest).trans rfl

theorem CodedInput.inEnSample : u.inEnSample = s.inEnSample := (congrArg State.inEnSample hu.rest).trans rfl

theorem CodedInput.inLen : u.inLen = s.inLen := (congrArg State.inLen hu.rest).trans rfl

theorem CodedInput.outPtr : u.outPtr.toNat = 0 := (congrArg (fun t => t.outPtr.toNat) hu.rest).trans rfl

theorem CodedInput.obufAt (k : Nat) : u.obufAt k = s.obufAt k := (congrArg (fun t => State.obufAt t k) hu.rest).trans rfl

theorem CodedInput.treeValid : u.treeValid = true := congrArg State.treeValid hu.rest

theorem CodedInput.codeValid : u.codeValid = true := congrArg State.codeValid hu.rest

/-- The input read again from its start, after the output `bs` (R242). -/
theorem CodedInput.inputBytes (bs : List Byte) :
    (u.wrote bs).restarted.inputBytes = s.ibufBytes 0 s.inLen.toNat := by
  obtain ⟨ft, tree, q, codes, rfl⟩ : ∃ ft tree q codes, u = { s with
      inPtr := s.inLen, outPtr := 0, treeValid := true, codeValid := true, ft := ft, tree := tree, mergeQ := q,
      codes := codes } := ⟨_, _, _, _, hu.rest⟩
  rfl

/-- Every byte of the input has a code. -/
theorem CodedInput.has {b : Byte} (hb : b ∈ bytes) : (codeAt u.codes b).has = true := by
  obtain ⟨-, hhas, -⟩ := hu.tables.2 hu.codeValid
  rw [(hhas b (mem_allSymbols b)).1, hu.table]
  exact List.contains_iff_mem.mpr hb

end CodedInput

/-- COUNT of the whole input (R142, R242). -/
theorem countBody_rewind {s : State} (hsample : s.inEnSample = true) (hmax : s.inLen.toNat ≤ s.cfg.ibufSize) :
    ∃ u ft, countBody s.rewind = .ok u ∧ u = { s.rewind.clearFt with inPtr := s.inLen, ft := ft } ∧
      ∀ sym, u.ftAt sym = countEntry (s.ibufBytes 0 s.inLen.toNat) sym := by
  obtain ⟨u, hu, hrest, htable⟩ := countBody_counts (s := s.rewind) ⟨hsample, hmax, Nat.zero_le _⟩
  have hptr : (s.rewind.readPast s.rewind.inputLeft).inPtr = s.inLen := State.readPast_inputLeft (s := s.rewind) (Nat.zero_le _)
  exact ⟨u, u.ft, hu, by rw [← hptr]; exact hrest, htable⟩

/-- COMPRESS of a non-empty input counts it and makes its tree and codes. -/
theorem compress_codes {s : State} (hsample : s.inEnSample = true) (hmin : 1 ≤ s.inLen.toNat)
    (hmax : s.inLen.toNat ≤ s.cfg.ibufSize) :
    ∃ u1 u2 u3, countBody s.rewind = .ok u1 ∧ buildBody u1 = .ok u2 ∧ codegenBody u2 = .ok u3 ∧
      CodedInput s (s.ibufBytes 0 s.inLen.toNat) u3 := by
  obtain ⟨u1, ft, h1, hrest, htable⟩ := countBody_rewind hsample hmax
  have hbytes := s.ibufBytes_length 0 s.inLen.toNat
  have hlen := s.inLen.isLt
  have htotal : u1.ftTotal = s.inLen.toNat := (ftTotal_of_counts htable (by omega)).trans hbytes
  have hnsym : u1.nsym ≠ 0 := by
    rw [nsym_of_counts htable, Ne, List.length_eq_zero_iff, List.dedup_eq_nil, ← List.length_eq_zero_iff]
    omega
  obtain ⟨h0, -⟩ | ⟨-, hover, -⟩ | ⟨-, -, tree, q, h2, htree, horder⟩ := buildBody_cases u1
  · exact absurd h0 hnsym
  · omega
  obtain ⟨codes, hcodes, hok⟩ :=
    arenaCodes_of_treeOk (s := { u1.invalidateTree with tree := tree, mergeQ := q, treeValid := true }) htree
  refine ⟨u1, _, _, h1, h2, codegenBody_of_some rfl hcodes, ?_, ⟨fun _ => ⟨htree, horder⟩, fun _ => ⟨rfl, hok⟩⟩, htable⟩
  subst hrest
  rfl

/-- The state that `codedFrom` speaks of: completion steps between the step commands change nothing (R242). -/
theorem codedFrom_eq {s c u1 u2 u3 : State} (hc : codedFrom s c) (h1 : countBody s.rewind = .ok u1)
    (h2 : buildBody u1 = .ok u2) (h3 : codegenBody u2 = .ok u3) : c = u3.finish := by
  obtain ⟨c1, c2, hc1, hc2, hc3⟩ := hc
  have hbuild : buildBody u1.finish = .ok u2.finish := by rw [buildBody_finish, h2]; rfl
  have hcodegen : codegenBody u2.finish = .ok u3.finish := by rw [codegenBody_finish, h3]; rfl
  obtain rfl : u1.finish = c1 :=
    Host.Outcome.next.inj ((congrArg (fun r => Host.Outcome.next (settle r)) h1).symm.trans hc1)
  obtain rfl : u2.finish = c2 :=
    Host.Outcome.next.inj ((congrArg (fun r => Host.Outcome.next (settle r)) hbuild).symm.trans hc2)
  exact (Host.Outcome.next.inj ((congrArg settleStop hcodegen).symm.trans hc3)).symm

/-! ### The length of the archive -/

theorem CodeEntry.code_length (e : CodeEntry) : e.code.length = e.len.toNat := by simp [CodeEntry.code]

/-- No code is longer than CODE_LEN can say (R59). -/
theorem messageBits_length_le (s : State) (msg : List Byte) : (s.messageBits msg).length ≤ 255 * msg.length := by
  induction msg with
  | nil => exact Nat.zero_le _
  | cons b msg ih =>
    have hb := (codeAt s.codes b).len.isLt
    have hcons : s.messageBits (b :: msg) = (codeAt s.codes b).code ++ s.messageBits msg := List.flatMap_cons
    rw [hcons, List.length_append, CodeEntry.code_length, List.length_cons]
    omega

theorem packedOutput_length_le (z : Bool) (bits : List Bool) : (packedOutput z bits).length ≤ (bits.length + 7) / 8 := by
  rw [← packBits_length]
  unfold packedOutput
  split
  · exact (List.dropLast_sublist _).length_le
  · exact le_rfl

/-- The archive of `k` input bytes has at most `2315 + 32k` bytes (R316). -/
theorem archive_length_le (s : State) (z : Bool) (msg : List Byte) :
    s.headerLength + (packedOutput z (s.messageBits msg)).length ≤ 2315 + 32 * msg.length := by
  have hbits := messageBits_length_le s msg
  have hout := packedOutput_length_le z (s.messageBits msg)
  have hsyms := s.nsym_le
  rw [State.headerLength]
  omega

/-! ### COMPRESS -/

theorem Appended.trans {s t u : State} {bs cs : List Byte} (hcfg : s.cfg.legal = true) (h : Appended s bs t)
    (h' : Appended t cs u) : Appended s (bs ++ cs) u := by
  have hptr := h.outPtr_toNat hcfg
  refine ⟨h'.cfg.trans h.cfg, h'.epoch.trans h.epoch, ?_, ?_, ?_⟩
  · rw [h'.obuf]
    show t.obuf.putMany t.outPtr.toNat cs = s.obuf.putMany s.outPtr.toNat (bs ++ cs)
    rw [hptr, h.obuf, Memory.putMany_append]
    rfl
  · rw [h'.outPtr, State.wrote_outPtr, h.outPtr, State.wrote_outPtr, State.wrote_outPtr, List.length_append,
      BitVec.ofNat_add, BitVec.add_assoc]
  · have hfits := h'.fits
    rw [h.cfg, hptr] at hfits
    rcases hfits with rfl | hfits
    · rw [List.append_nil]
      exact h.fits
    · rw [List.length_append]
      omega

/-- ENCODE in COMPRESS: after the output `bs` it reads the input again and packs it (R242). -/
theorem CodedInput.encode {s u : State} (hu : CodedInput s (s.ibufBytes 0 s.inLen.toNat) u) (z : Bool) (bs : List Byte)
    (hcfg : s.cfg.legal = true) (hsample : s.inEnSample = true) (hmax : s.inLen.toNat ≤ s.cfg.ibufSize)
    (hroom : (u.wrote bs).outPtr.toNat + (packedOutput z (u.messageBits (s.ibufBytes 0 s.inLen.toNat))).length ≤
      s.cfg.obufSize) :
    ∃ u5, encodeBody z (u.wrote bs).restarted = .ok u5 ∧ u5.inPtr = s.inLen ∧
      Appended (u.wrote bs).restarted (packedOutput z (u.messageBits (s.ibufBytes 0 s.inLen.toNat))) u5 := by
  rw [← hu.cfg] at hcfg hmax hroom
  have hin : (u.wrote bs).restarted.inputOk :=
    ⟨hu.inEnSample.trans hsample, (congrArg BitVec.toNat hu.inLen).trans_le hmax, Nat.zero_le _⟩
  have hpost := encodeBody_packs (s := (u.wrote bs).restarted) z hcfg hin hu.codeValid fun b hb =>
    hu.has (hu.inputBytes bs ▸ hb)
  rw [hu.inputBytes] at hpost
  obtain ⟨u5, hbody, happ, hptr, -, -⟩ := hpost.ok_of_fits (.inr hroom)
  exact ⟨u5, hbody, hptr.trans hu.inLen, happ⟩

/-- What COMPRESS writes once its input is coded: the header and the packed input (R242). -/
theorem compress_writes {s u : State} (z : Bool) (hcfg : s.cfg.legal = true) (hsample : s.inEnSample = true)
    (hmax : s.inLen.toNat ≤ s.cfg.ibufSize) (hu : CodedInput s (s.ibufBytes 0 s.inLen.toNat) u)
    (hroom : u.headerLength + (packedOutput z (u.messageBits (s.ibufBytes 0 s.inLen.toNat))).length ≤ s.cfg.obufSize) :
    ∃ u4 u5, wrhdrBody u = .ok u4 ∧ encodeBody z { u4 with inPtr := 0 } = .ok u5 ∧ u5.inPtr = s.inLen ∧
      Appended u (u.headerBytes ++ packedOutput z (u.messageBits (s.ibufBytes 0 s.inLen.toNat))) u5 := by
  have hucfg : u.cfg.legal = true := hu.cfg ▸ hcfg
  have hlen := u.headerBytes_length
  have hheader : u.outPtr.toNat + u.headerBytes.length ≤ u.cfg.obufSize := by
    rw [hu.outPtr, hu.cfg]
    omega
  have hw : wrhdrBody u = .ok (u.wrote u.headerBytes) := by
    rw [wrhdrBody_eq_emitMany, State.emitMany_ok _ _ hheader (State.obufSize_le hucfg)]
  have happ : Appended u u.headerBytes (u.wrote u.headerBytes).restarted := (Appended.of_wrote (.inr hheader)).same
  have hptr : (u.wrote u.headerBytes).outPtr.toNat = _ := happ.outPtr_toNat hucfg
  rw [hu.outPtr, hlen, Nat.zero_add] at hptr
  obtain ⟨u5, hbody, hinPtr, happ5⟩ := hu.encode z u.headerBytes hcfg hsample hmax (hptr ▸ hroom)
  exact ⟨_, u5, hw, hbody, hinPtr, happ.trans hucfg happ5⟩

theorem Writes.sameEngine {K : List Part} {s t : State} (h : Writes K s t) : SameEngine K s t :=
  h.keeps (fun _ hp _ _ hmove => hmove.sameEngine hp)
    ⟨fun _ => rfl, fun _ => ⟨rfl, rfl⟩, fun _ => rfl, fun _ _ => rfl, fun _ _ _ => rfl, fun _ => ⟨rfl, rfl⟩, fun _ => rfl⟩

theorem State.headerBytes_congr {s t : State} (h : t.ft = s.ft) : t.headerBytes = s.headerBytes := by
  simp only [State.headerBytes, State.nsym, State.ftAt, h]

theorem State.messageBits_congr {s t : State} (h : t.codes = s.codes) (msg : List Byte) :
    t.messageBits msg = s.messageBits msg := by
  rw [State.messageBits, h, State.messageBits]

/-- WRHDR and ENCODE in COMPRESS leave the tables alone (R242). -/
theorem compress_writes_parts {z : Bool} {u u4 u5 : State} (h4 : wrhdrBody u = .ok u4)
    (h5 : encodeBody z { u4 with inPtr := 0 } = .ok u5) : Writes [.input, .output, .packer, .restart] u u5 := by
  have hw4 := wrhdrBody_writes u
  have hw5 := encodeBody_writes z { u4 with inPtr := 0 }
  rw [h4] at hw4
  rw [h5] at hw5
  have hw4 : Writes [.output] u u4 := hw4
  have hw5 : Writes [.input, .output, .packer] { u4 with inPtr := 0 } u5 := hw5
  exact (hw4.mono (by simp)).trans ((Writes.one (.restart u4)).trans (hw5.mono (by simp)))

/-- Settles O41: by the steps of COMPRESS on an input that is counted and coded; its codes are too short for the archive to
pass `2315 + 32 * IN_LEN` bytes. -/
theorem compressWritesArchive : Obligations.CompressWritesArchive := by
  intro z s hcfg hsample hmin hmax hroom
  obtain ⟨u1, u2, u3, h1, h2, h3, hu⟩ := compress_codes hsample hmin hmax
  have hbytes := s.ibufBytes_length 0 s.inLen.toNat
  have hlen := s.inLen.isLt
  have hroom3 : u3.headerLength + (packedOutput z (u3.messageBits (s.ibufBytes 0 s.inLen.toNat))).length ≤ s.cfg.obufSize := by
    rcases hroom with hbig | ⟨c, hc, hfits⟩
    · have harchive := archive_length_le u3 z (s.ibufBytes 0 s.inLen.toNat)
      omega
    · rw [codedFrom_eq hc h1 h2 h3] at hfits
      exact hfits
  obtain ⟨u4, u5, h4, h5, hptr, happ⟩ := compress_writes z hcfg hsample hmax hu hroom3
  have hbody := compressBody_of_steps h1 h2 h3 h4 h5
  have hexec : exec (.compress z) s = .next u5.finish := congrArg settleStop hbody
  have hreach := compressBody_reaches z s
  rw [hbody] at hreach
  have hwrites := compress_writes_parts h4 h5
  have hsame := hwrites.sameEngine
  have htv : u5.treeValid = true := (hsame.treeValid (by simp) (by simp)).trans hu.treeValid
  have hcv : u5.codeValid = true := (hsame.codeValid (by simp) (by simp) (by simp)).trans hu.codeValid
  have hft : u5.ft = u3.ft := hsame.ft (by simp)
  have hcodes : u5.codes = u3.codes := hsame.codes (by simp)
  have htables : u5.TablesInv := hwrites.keeps_tables hu.tables
  obtain ⟨htree, horder⟩ := htables.1 htv
  have hoptr := happ.outPtr_toNat (hu.cfg ▸ hcfg)
  have hobuf := happ.obufBytes
  have hout := happ.outside
  rw [hu.outPtr, Nat.zero_add] at hoptr hout
  rw [hu.outPtr, ← hoptr] at hobuf
  rw [← hoptr] at hout
  refine ⟨_, hexec, finished_of_reaches hreach, htv, hcv, htree, horder, (htables.2 hcv).2, hptr, fun sym => ?_, ?_,
    fun k hk => (hout k (.inr hk)).trans (hu.obufAt k), (commandsLeaveHostSide _ s _ hexec).1⟩
  · have hentry : u5.finish.ftAt sym = countEntry (s.ibufBytes 0 s.inLen.toNat) sym :=
      (State.ftAt_congr hft sym).trans (hu.table sym)
    rw [hentry, countEntry_toNat (by omega)]
    exact ⟨rfl, rfl⟩
  · rw [State.headerBytes_congr (t := u5.finish) hft, State.messageBits_congr (t := u5.finish) hcodes]
    exact hobuf

end Sys2Proof.Machine
end

section
/-! SUPPORT. A header of the format read back by RDHDR (R120 to R124, R162). -/

namespace Sys2Proof.Machine

/-! ### Parts of a byte sequence -/

theorem leNat_leBytes8 (v : Count) : leNat (leBytes8 v) = v.toNat := by
  have hv := v.isLt
  have hrange : List.range 8 = [0, 1, 2, 3, 4, 5, 6, 7] := rfl
  simp only [leBytes8, leNat, hrange, List.map_cons, List.map_nil, BitVec.extractLsb'_toNat, Nat.shiftRight_eq_div_pow,
    Nat.reduceMul, Nat.reducePow]
  omega

/-- A piece of the bytes of IBUF. -/
theorem State.ibufBytes_piece (s : State) (i : Nat) {a b n : Nat} (h : a + b ≤ n) :
    s.ibufBytes (i + a) b = ((s.ibufBytes i n).drop a).take b := by
  refine List.ext_getElem (by simp [State.ibufBytes]; omega) fun j hj _ => ?_
  simp [State.ibufBytes, Nat.add_assoc]

theorem State.ibufBytes_cons (s : State) (i n : Nat) : s.ibufBytes i (n + 1) = s.ibufAt i :: s.ibufBytes (i + 1) n := by
  simp [State.ibufBytes, List.range_succ_eq_map, Function.comp_def, Nat.add_assoc, Nat.add_comm 1]

/-- Piece `q` of a sequence made of pieces of one length. -/
theorem flatMap_piece {α β : Type} {f : α → List β} {m : Nat} (hf : ∀ x, (f x).length = m) {l : List α} {q : Nat}
    (hq : q < l.length) : ((l.flatMap f).drop (m * q)).take m = f l[q] := by
  induction l generalizing q with
  | nil => exact absurd hq (Nat.not_lt_zero q)
  | cons x l ih =>
    rw [List.flatMap_cons]
    cases q with
    | zero => rw [Nat.mul_zero, List.drop_zero, List.take_left' (hf x)]; rfl
    | succ q =>
      rw [Nat.mul_succ, Nat.add_comm, ← List.drop_drop, List.drop_left' (hf x), ih (by simpa using hq)]
      rfl

/-! ### The header -/

theorem magic_length : magic.length = 3 := rfl

theorem State.entryBytes_length (s : State) (sym : Byte) : (s.entryBytes sym).length = 9 := by
  rw [State.entryBytes, List.length_cons, leBytes8_length]

theorem State.headerBytes_eq (s : State) :
    s.headerBytes = magic ++ (leBytes8 (BitVec.ofNat 64 s.nsym) ++ s.presentSyms.flatMap s.entryBytes) :=
  List.append_assoc _ _ _

/-- The bytes of entry `j` of a header (R123, R124). -/
theorem State.headerBytes_entry (s : State) {j : Nat} (hj : j < s.presentSyms.length) :
    (s.headerBytes.drop (11 + 9 * j)).take 9 = s.entryBytes s.presentSyms[j] := by
  have hfixed : (magic ++ leBytes8 (BitVec.ofNat 64 s.nsym)).length = 11 := by
    rw [List.length_append, leBytes8_length]
    rfl
  rw [State.headerBytes_eq, ← List.append_assoc, ← List.drop_drop, List.drop_left' hfixed,
    flatMap_piece s.entryBytes_length hj]

/-- A header of the format stands in IBUF at IN_PTR (R120). -/
abbrev HeaderAt (s src : State) : Prop := s.ibufBytes s.inPtr.toNat src.headerLength = src.headerBytes

section HeaderAt
variable {s src : State} (h : HeaderAt s src)
include h

theorem HeaderAt.magic_eq : s.ibufBytes s.inPtr.toNat 3 = magic := by
  have hpiece := s.ibufBytes_piece s.inPtr.toNat (a := 0) (b := 3) (n := src.headerLength) (by rw [State.headerLength]; omega)
  rwa [h, State.headerBytes_eq, List.drop_zero, List.take_left' magic_length] at hpiece

theorem HeaderAt.symbolCount_eq : s.symbolCount = src.nsym := by
  have hpiece := s.ibufBytes_piece s.inPtr.toNat (a := 3) (b := 8) (n := src.headerLength) (by rw [State.headerLength]; omega)
  rw [h, State.headerBytes_eq, List.drop_left' magic_length, List.take_left' (leBytes8_length _)] at hpiece
  have hsyms := src.nsym_le
  rw [State.symbolCount, hpiece, leNat_leBytes8]
  exact Nat.mod_eq_of_lt (by omega)

theorem HeaderAt.entry_eq {j : Nat} (hj : j < src.presentSyms.length) :
    s.entrySym j = src.presentSyms[j] ∧ s.entryCount j = (src.ftAt src.presentSyms[j]).count := by
  have hroom : 11 + 9 * j + 9 ≤ src.headerLength := by
    rw [State.headerLength, src.nsym_eq]
    omega
  have hpiece := s.ibufBytes_piece s.inPtr.toNat hroom
  rw [h, src.headerBytes_entry hj, State.ibufBytes_cons] at hpiece
  obtain ⟨hsym, hcount⟩ := List.cons.inj hpiece
  rw [← Nat.add_assoc] at hsym hcount
  refine ⟨hsym, ?_⟩
  rw [State.entryCount, show s.inPtr.toNat + 12 + 9 * j = s.inPtr.toNat + 11 + 9 * j + 1 by omega, hcount, leNat_leBytes8]
  exact (BitVec.ofNat_toNat _ _).trans (BitVec.setWidth_eq _)

theorem HeaderAt.entrySyms_eq : s.entrySyms src.nsym = src.presentSyms := by
  refine List.ext_getElem (by rw [s.entrySyms_length, src.nsym_eq]) fun j hj hj' => ?_
  rw [← (h.entry_eq hj').1]
  simp [State.entrySyms]

theorem HeaderAt.entrySyms_nodup : (s.entrySyms src.nsym).Nodup := h.entrySyms_eq ▸ src.presentSyms_nodup

/-- The table read is the table written, and absent symbols have count 0 (R162). -/
theorem HeaderAt.loaded_ftAt (sym : Byte) :
    (s.loaded src.nsym).ftAt sym = if (src.ftAt sym).present = true then src.ftAt sym else FtEntry.absent := by
  split
  next hp =>
    obtain ⟨j, hj, rfl⟩ := List.getElem_of_mem ((src.mem_presentSyms sym).mpr hp)
    obtain ⟨hsym, hcount⟩ := h.entry_eq hj
    have hentry := State.loaded_ftAt_entry h.entrySyms_nodup (src.nsym_eq ▸ hj)
    rw [hsym, hcount] at hentry
    rw [hentry, ← hp]
  next hp =>
    refine State.loaded_ftAt_absent ?_
    rwa [h.entrySyms_eq, src.mem_presentSyms]

/-- RDHDR of a header of the format reads it whole (R162). -/
theorem HeaderAt.rdhdrBody_eq (hin : s.inputOk) (hn : 1 ≤ src.nsym)
    (hroom : s.inPtr.toNat + src.headerLength ≤ s.inLen.toNat) : rdhdrBody s = .ok (s.loaded src.nsym) := by
  have hcount := h.symbolCount_eq
  have hsyms := src.nsym_le
  rw [State.headerLength] at hroom
  rw [rdhdrBody_eq_readEntries hin (by omega) h.magic_eq (by omega) (by omega), hcount]
  exact readEntries_distinct 0 hroom h.entrySyms_nodup

end HeaderAt

end Sys2Proof.Machine
end

section
/-! SUPPORT. BUILD depends on the entries of the present symbols alone (R183): two runs of its loop on arenas that agree below the
next index go the same way. -/

namespace Sys2Proof.Machine

/-! ### Tables and arenas that agree -/

/-- The two tables have the same present symbols, with the same counts. -/
def SameEntries (s t : State) : Prop :=
  ∀ sym, (s.ftAt sym).present = (t.ftAt sym).present ∧ ((t.ftAt sym).present = true → s.ftAt sym = t.ftAt sym)

section SameEntries
variable {s t : State} (h : SameEntries s t)
include h

theorem SameEntries.presentSyms_eq : s.presentSyms = t.presentSyms :=
  List.filter_congr fun sym _ => (h sym).1

theorem SameEntries.nsym_eq : s.nsym = t.nsym := by
  rw [s.nsym_eq, h.presentSyms_eq, t.nsym_eq]

theorem SameEntries.ftAt_eq {sym : Byte} (hsym : sym ∈ t.presentSyms) : s.ftAt sym = t.ftAt sym :=
  (h sym).2 ((t.mem_presentSyms sym).mp hsym)

theorem SameEntries.ftTotal_eq : s.ftTotal = t.ftTotal := by
  rw [s.ftTotal_eq, t.ftTotal_eq, h.presentSyms_eq]
  exact congrArg List.sum (List.map_congr_left fun sym hsym => by rw [h.ftAt_eq hsym])

end SameEntries

/-- The two arenas have the same nodes below index `k`. -/
def AgreeBelow (a a' : Nodes) (k : Nat) : Prop := ∀ i : NodeIx, i.val < k → nodeAt a i = nodeAt a' i

theorem SameEntries.leafArena {s t : State} (h : SameEntries s t) : AgreeBelow s.leafArena t.leafArena t.nsym := by
  intro i hi
  rw [t.nsym_eq] at hi
  rw [← nodeIx_of_val i, nodeAt_leafArena t hi, nodeAt_leafArena s (h.presentSyms_eq ▸ hi)]
  simp only [h.presentSyms_eq, h.ftAt_eq (List.getElem_mem hi)]

/-! ### One turn of the loop -/

theorem insertByKey_congr {α : Type} {key key' : α → Nat} {x : α} {q : List α} (hx : key x = key' x)
    (hq : ∀ y ∈ q, key y = key' y) : insertByKey key x q = insertByKey key' x q := by
  induction q with
  | nil => rfl
  | cons y q ih =>
    obtain ⟨hy, hq⟩ := List.forall_mem_cons.mp hq
    rw [insertByKey, insertByKey, hx, hy, ih hq]

/-- A sort sees only the keys of its elements. -/
theorem stableSortBy_congr {α : Type} {key key' : α → Nat} {q : List α} (hq : ∀ y ∈ q, key y = key' y) :
    stableSortBy key q = stableSortBy key' q := by
  induction q with
  | nil => rfl
  | cons x q ih =>
    obtain ⟨hx, hq⟩ := List.forall_mem_cons.mp hq
    have hrest : stableSortBy key q = stableSortBy key' q := ih hq
    change insertByKey key x (stableSortBy key q) = insertByKey key' x (stableSortBy key' q)
    rw [hrest]
    exact insertByKey_congr hx fun y hy => hq y ((stableSortBy_perm key' q).mem_iff.mp hy)

section Agree
variable {a a' : Nodes} {k : Nat} (h : AgreeBelow a a' k)
include h

theorem AgreeBelow.nodeWeight_eq {i : NodeIx} (hi : i.val < k) : nodeWeight a i = nodeWeight a' i :=
  congrArg (fun x => x.w.toNat) (h i hi)

theorem AgreeBelow.merge {x y : NodeIx} (hk : k < 511) (hx : x.val < k) (hy : y.val < k) :
    AgreeBelow (mergeNodes a x y (nodeIx k)) (mergeNodes a' x y (nodeIx k)) (k + 1) := by
  have hval := nodeIx_val hk
  have hne : ∀ {j : NodeIx}, j.val < k → j ≠ nodeIx k := fun hj he => by
    rw [he, hval] at hj
    exact Nat.lt_irrefl k hj
  intro i hi
  rw [nodeAt_mergeNodes a (hne hx) (hne hy), nodeAt_mergeNodes a' (hne hx) (hne hy)]
  by_cases hnew : i = nodeIx k
  · rw [if_pos hnew, if_pos hnew, mergedNode, mergedNode, h x hx, h y hy]
  · have hlt : i.val < k := by
      refine Nat.lt_of_le_of_ne (Nat.le_of_lt_succ hi) fun he => hnew (Fin.ext (he.trans hval.symm))
    rw [if_neg hnew, if_neg hnew, h i hlt]

end Agree

/-! ### The loop -/

/-- The results of two runs of BUILD's loop: equal next indices and sequences, and arenas that agree below that index. -/
def SameMerge (r r' : Nat × List NodeIx × Nodes) : Prop := r.1 = r'.1 ∧ r.2.1 = r'.2.1 ∧ AgreeBelow r.2.2 r'.2.2 r'.1

theorem mergeLoop_agree (m : Nat) {k : Nat} {q : List NodeIx} {a a' : Nodes} (h : AgreeBelow a a' k)
    (hq : ∀ i ∈ q, i.val < k) (hfit : q.length + k ≤ 512) : SameMerge (mergeLoop m k q a) (mergeLoop m k q a') := by
  induction m generalizing k q a a' with
  | zero => exact ⟨rfl, rfl, h⟩
  | succ m ih =>
    match q with
    | [] => exact ⟨rfl, rfl, h⟩
    | [_] => exact ⟨rfl, rfl, h⟩
    | x :: y :: q =>
      obtain ⟨hx, hq⟩ := List.forall_mem_cons.mp hq
      obtain ⟨hy, hq⟩ := List.forall_mem_cons.mp hq
      rw [List.length_cons, List.length_cons] at hfit
      have hmerge := h.merge (by omega) hx hy
      have hnext : ∀ i ∈ q ++ [nodeIx k], i.val < k + 1 := by
        intro i hi
        rcases List.mem_append.mp hi with hi | hi
        · exact (hq i hi).trans (Nat.lt_succ_self k)
        · rw [List.mem_singleton.mp hi, nodeIx_val (by omega)]
          exact Nat.lt_succ_self k
      have hperm := stableSortBy_perm (nodeWeight (mergeNodes a' x y (nodeIx k))) (q ++ [nodeIx k])
      rw [mergeLoop, mergeLoop, stableSortBy_congr fun i hi => hmerge.nodeWeight_eq (hnext i hi)]
      refine ih hmerge (fun i hi => hnext i (hperm.mem_iff.mp hi)) ?_
      rw [hperm.length_eq, List.length_append, List.length_singleton]
      omega

/-! ### BUILD -/

/-- The loop of BUILD on the leaves of a table (R181). -/
def State.mergedLeaves (s : State) : Nat × List NodeIx × Nodes :=
  mergeLoop s.nsym s.nsym (stableSortBy (nodeWeight s.leafArena) ((List.range s.nsym).map nodeIx)) s.leafArena

/-- The tree BUILD makes of a table (R181). -/
def State.builtTree (s : State) : Tree where
  nodes := s.invalidateTree.mergedLeaves.2.2
  root := s.invalidateTree.mergedLeaves.2.1.headD 0
  count := Fin.ofNat 512 s.invalidateTree.mergedLeaves.1

/-- BUILD of a non-empty table whose total fits 64 bits stores the tree of the table (R181). -/
theorem buildBody_ok {s : State} (hn : 1 ≤ s.nsym) (hfit : s.ftTotal ≤ 2 ^ 64 - 1) :
    (∃ q, buildBody s = .ok { s.invalidateTree with tree := s.builtTree, mergeQ := q, treeValid := true }) ∧
      State.treeOk { s with tree := s.builtTree } ∧ State.mergeOrderOk { s with tree := s.builtTree } := by
  have hnsym : s.invalidateTree.nsym = s.nsym := rfl
  have htotal : s.invalidateTree.ftTotal = s.ftTotal := rfl
  refine ⟨⟨s.invalidateTree.mergedLeaves.2.1, ?_⟩, buildTree_spec s.invalidateTree hn hfit rfl⟩
  rw [buildBody]
  dsimp only
  rw [hnsym, htotal, if_neg (by omega), if_neg (by omega)]
  rfl

theorem SameEntries.mergedLeaves {s t : State} (h : SameEntries s t) : SameMerge s.mergedLeaves t.mergedLeaves := by
  have hn := t.nsym_le
  have hagree := h.leafArena
  have hperm := stableSortBy_perm (nodeWeight t.leafArena) ((List.range t.nsym).map nodeIx)
  have hleaf : ∀ i ∈ (List.range t.nsym).map nodeIx, i.val < t.nsym := by
    intro i hi
    obtain ⟨j, hj, rfl⟩ := List.mem_map.mp hi
    rw [List.mem_range] at hj
    rwa [nodeIx_val (by omega)]
  rw [State.mergedLeaves, State.mergedLeaves, h.nsym_eq, stableSortBy_congr fun i hi => hagree.nodeWeight_eq (hleaf i hi)]
  refine mergeLoop_agree t.nsym hagree (fun i hi => hleaf i (hperm.mem_iff.mp hi)) ?_
  rw [hperm.length_eq, List.length_map, List.length_range]
  omega

/-- The tree depends on the entries of the table alone (R183). -/
theorem SameEntries.builtTree {s t : State} (h : SameEntries s t) :
    s.builtTree.root = t.builtTree.root ∧ s.builtTree.count = t.builtTree.count ∧
      AgreeBelow s.builtTree.nodes t.builtTree.nodes t.builtTree.count.val := by
  obtain ⟨hnext, hq, hagree⟩ := SameEntries.mergedLeaves (s := s.invalidateTree) (t := t.invalidateTree) h
  refine ⟨congrArg (List.headD · 0) hq, congrArg (Fin.ofNat 512) hnext, fun i hi => hagree i ?_⟩
  exact hi.trans_le (Nat.mod_le _ _)

/-! ### The codes of the tree -/

/-- Walks to the root in arenas that agree below the end of a tree. -/
theorem parentWalk_agree {s : State} (h : s.treeOk) {a : Nodes} (hagree : AgreeBelow s.tree.nodes a (2 * s.nsym - 1))
    (fuel : Nat) {i : Nat} (bits : List Bool) (hi : i < 2 * s.nsym - 1) :
    parentWalk s.tree.nodes fuel (nodeIx i) bits = parentWalk a fuel (nodeIx i) bits := by
  have hsyms := s.nsym_le
  have hnode : ∀ {i : Nat}, i < 2 * s.nsym - 1 → nodeAt s.tree.nodes (nodeIx i) = nodeAt a (nodeIx i) :=
    fun hi => hagree _ (by rwa [nodeIx_val (by omega)])
  induction fuel generalizing i bits with
  | zero =>
    rw [parentWalk, parentWalk, hnode hi]
  | succ fuel ih =>
    cases hp : (s.node i).hasp with
    | false => rw [parentWalk_of_root hp, parentWalk_of_root (hnode hi ▸ hp)]
    | true =>
      obtain ⟨hmax, -, -⟩ := h.parent hi hp
      have hwalk := ih (bits ++
        [if (nodeAt s.tree.nodes (nodeAt s.tree.nodes (nodeIx i)).parent).left = nodeIx i then false else true]) hmax
      rw [nodeIx_of_val] at hwalk
      rw [parentWalk_of_child hp, parentWalk_of_child (hnode hi ▸ hp), ← hnode hi,
        ← hagree (nodeAt s.tree.nodes (nodeIx i)).parent hmax]
      exact hwalk

/-- The codes of two trees that agree (R183, R190). -/
theorem treeCode_agree {s t : State} (h : s.treeOk) (hn : t.nsym = s.nsym)
    (hagree : AgreeBelow s.tree.nodes t.tree.nodes (2 * s.nsym - 1)) (sym : Byte) : t.treeCode sym = s.treeCode sym := by
  have hsyms := s.nsym_le
  have hfind : (List.range t.nsym).find? (fun i => (t.node i).sym == sym) =
      (List.range s.nsym).find? (fun i => (s.node i).sym == sym) := by
    rw [hn]
    refine List.find?_congr fun i hi => ?_
    rw [List.mem_range] at hi
    rw [State.node, State.node, hagree _ (by rw [nodeIx_val (by omega)]; omega)]
  rw [State.treeCode, State.treeCode, hfind]
  cases hk : (List.range s.nsym).find? (fun i => (s.node i).sym == sym) with
  | none => rfl
  | some k =>
    have hkn : k < s.nsym := List.mem_range.mp (List.mem_of_find?_eq_some hk)
    rw [Option.bind_some, Option.bind_some, leafCode, leafCode, parentWalk_agree h hagree 255 [] (by omega)]

end Sys2Proof.Machine
end

section
/-! SUPPORT. DECOMPRESS (R243) of an archive: RDHDR reads its header, BUILD makes the tree of the table, DECODE reads the packed
message back, whether or not the root is a leaf (R220, R221). -/

namespace Sys2Proof.Machine

/-! ### DECODE with a leaf root -/

/-- DECODE's output when the root is a leaf, after the bytes `bs` (R221). -/
theorem emitRoot_appends {s t : State} {bs : List Byte} (hcfg : s.cfg.legal = true) (sym : Byte) (k : Nat)
    (h : Appended s bs t) (hroom : k = 0 ∨ s.outPtr.toNat + (bs.length + k) ≤ s.cfg.obufSize) :
    ∃ u, emitRoot sym k t = .ok u ∧ Appended s (bs ++ List.replicate k sym) u ∧ u.inPtr = t.inPtr := by
  induction k generalizing bs t with
  | zero => exact ⟨t, rfl, by rwa [List.replicate_zero, List.append_nil], rfl⟩
  | succ k ih =>
    rcases h.emit hcfg sym with ⟨he, hone⟩ | ⟨-, hfull⟩
    · have hroom' : k = 0 ∨ s.outPtr.toNat + ((bs ++ [sym]).length + k) ≤ s.cfg.obufSize := by
        rw [List.length_append, List.length_singleton]
        omega
      have hcounted : Appended s (bs ++ [sym])
          { t.wrote [sym] with walk := { (t.wrote [sym]).walk with emitted := (t.wrote [sym]).walk.emitted + 1 } } := hone.same
      obtain ⟨u, hu, happ, hptr⟩ := ih hcounted hroom'
      refine ⟨u, ?_, by rwa [List.replicate_succ, List.append_cons], hptr⟩
      rw [emitRoot, he]
      exact hu
    · omega

/-- A tree whose root is a leaf has one symbol, and its code is empty. -/
theorem leaf_root_code {s : State} (h : s.treeOk) (hroot : (nodeAt s.tree.nodes s.tree.root).leaf = true) {sym : Byte}
    (hsym : (s.ftAt sym).present = true) : s.treeCode sym = [] ∧ sym = (nodeAt s.tree.nodes s.tree.root).sym := by
  have hlead := leadsTo_treeCode h hsym
  cases hcode : s.treeCode sym with
  | nil =>
    rw [hcode] at hlead
    exact ⟨rfl, hlead.2.symm⟩
  | cons b bits =>
    rw [hcode] at hlead
    exact nomatch hroot.symm.trans hlead.1

/-- A tree with an internal root has two symbols or more. -/
theorem two_le_nsym {s : State} (h : s.treeOk) (hroot : (nodeAt s.tree.nodes s.tree.root).leaf = false) : 2 ≤ s.nsym := by
  obtain ⟨hn, -, hlast, -, -, ⟨hleaf, -⟩, -⟩ := h
  by_contra hlt
  have hzero : s.tree.root.val = 0 := by omega
  obtain ⟨hleaf0, -⟩ := hleaf 0 hn
  rw [← hzero, State.node, nodeIx_of_val, hroot] at hleaf0
  exact Bool.false_ne_true hleaf0

/-- DECODE with a leaf root, past its checks (R221). -/
theorem decodeBody_eq_emitRoot {s : State} (h : s.inputOk) (hv : s.treeValid = true)
    (hroot : (nodeAt s.tree.nodes s.tree.root).leaf = true) (htotal : s.ftTotal < 2 ^ 64) :
    decodeBody s = emitRoot (nodeAt s.tree.nodes s.tree.root).sym s.ftTotal
      { s with walk := { s.walk with total := BitVec.ofNat 64 s.ftTotal, emitted := 0 } } := by
  rw [decodeBody, State.inputChecks_ok s h]
  change (if s.treeValid = false then _ else if (nodeAt s.tree.nodes s.tree.root).leaf then
    emitRoot (nodeAt s.tree.nodes s.tree.root).sym (BitVec.ofNat 64 s.ftTotal).toNat _ else _) = _
  rw [if_neg (by simp [hv]), if_pos hroot, BitVec.toNat_ofNat, Nat.mod_eq_of_lt htotal]

/-- DECODE of any message under a valid tree, packed at the start of the input, with room for it in OBUF. -/
theorem decodeBody_reads {s : State} (hcfg : s.cfg.legal = true) (h : s.inputOk) (hv : s.treeValid = true)
    (htree : s.treeOk) {msg : List Byte} (hlen : msg.length = s.ftTotal) (hmsg : ∀ b ∈ msg, (s.ftAt b).present = true)
    (hbits : msg.flatMap s.treeCode <+: s.inputBits)
    (hroom : msg = [] ∨ s.outPtr.toNat + msg.length ≤ s.cfg.obufSize) :
    ∃ t, decodeBody s = .ok t ∧ Appended s msg t ∧
      t.inPtr = (s.readPast (((msg.flatMap s.treeCode).length + 7) / 8)).inPtr := by
  cases hroot : (nodeAt s.tree.nodes s.tree.root).leaf with
  | true =>
    have hcodes : msg.flatMap s.treeCode = [] :=
      List.flatMap_eq_nil_iff.mpr fun b hb => (leaf_root_code htree hroot (hmsg b hb)).1
    have hrep : msg = List.replicate s.ftTotal (nodeAt s.tree.nodes s.tree.root).sym :=
      List.eq_replicate_iff.mpr ⟨hlen, fun b hb => (leaf_root_code htree hroot (hmsg b hb)).2⟩
    rw [← List.length_eq_zero_iff, hlen] at hroom
    obtain ⟨t, ht, happ, hptr⟩ := emitRoot_appends hcfg (nodeAt s.tree.nodes s.tree.root).sym s.ftTotal
      (t := { s with walk := { s.walk with total := BitVec.ofNat 64 s.ftTotal, emitted := 0 } }) (Appended.nil s).same
      (by rwa [List.length_nil, Nat.zero_add])
    rw [List.nil_append, ← hrep] at happ
    refine ⟨t, (decodeBody_eq_emitRoot h hv hroot htree.ftTotal_lt).trans ht, happ, hptr.trans ?_⟩
    rw [hcodes]
    exact (congrArg State.inPtr s.readPast_zero).symm
  | false => exact decodeBody_message hcfg h hv htree (two_le_nsym htree hroot) hlen hmsg hbits hroom

/-! ### DECOMPRESS -/

/-- A table that differs from another in absent symbols only has the same entries (R162). -/
theorem SameEntries.of_cleared {t src : State}
    (h : ∀ sym, t.ftAt sym = if (src.ftAt sym).present = true then src.ftAt sym else FtEntry.absent) :
    SameEntries t src := by
  intro sym
  rw [h]
  by_cases hp : (src.ftAt sym).present = true
  · rw [if_pos hp]
    exact ⟨rfl, fun _ => rfl⟩
  · rw [if_neg hp]
    exact ⟨(Bool.eq_false_of_not_eq_true hp).symm, fun h => absurd h hp⟩

/-- `u` is `s` past the header of `src` in the input, with the table of `src` and the tree `built` has (R243). -/
structure ArchiveTree (s src built u : State) : Prop where
  rest : u = { s with
    inPtr := u.inPtr, outPtr := 0, treeValid := true, codeValid := false, ft := u.ft, tree := u.tree, mergeQ := u.mergeQ }
  inPtr : u.inPtr.toNat = src.headerLength
  tables : u.TablesInv
  table : ∀ sym, u.ftAt sym = if (src.ftAt sym).present = true then src.ftAt sym else FtEntry.absent
  codes : ∀ sym, built.treeCode sym = u.treeCode sym

/-- The codes of the trees BUILD makes of tables with the same entries (R183). -/
theorem SameEntries.treeCode_eq {s src built u : State} (h : SameEntries s src) (hn : 1 ≤ src.nsym)
    (hfit : src.ftTotal ≤ 2 ^ 64 - 1) (hbuilt : exec .build src = .next built) (htree : u.treeOk)
    (hu : u.tree = s.builtTree) (hft : u.ft = s.ft) (sym : Byte) : built.treeCode sym = u.treeCode sym := by
  obtain ⟨⟨q, hbody⟩, -⟩ := buildBody_ok hn hfit
  obtain rfl := Host.Outcome.next.inj ((congrArg (fun r => Host.Outcome.next (settle r)) hbody).symm.trans hbuilt)
  obtain ⟨-, hcount, hagree⟩ := h.builtTree
  have hnsym : u.nsym = src.nsym := by rw [State.nsym, hft, ← State.nsym, h.nsym_eq]
  obtain ⟨-, hucount, -⟩ := id htree
  rw [← hcount, ← hu, hucount] at hagree
  refine treeCode_agree htree ?_ ?_ sym
  · exact hnsym.symm
  · exact hagree

/-- RDHDR in DECOMPRESS (R162, R243). -/
theorem decompress_table {s src : State} (hsample : s.inEnSample = true) (hmax : s.inLen.toNat ≤ s.cfg.ibufSize)
    (hn : 1 ≤ src.nsym) (hheader : s.ibufBytes 0 src.headerLength = src.headerBytes)
    (hroom : src.headerLength ≤ s.inLen.toNat) :
    ∃ u ptr ft, rdhdrBody s.rewind = .ok u ∧ u = { s.rewind.clearFt with inPtr := ptr, ft := ft } ∧
      ptr.toNat = src.headerLength ∧
      ∀ sym, u.ftAt sym = if (src.ftAt sym).present = true then src.ftAt sym else FtEntry.absent := by
  have hat : HeaderAt s.rewind src := hheader
  have hroom0 : s.rewind.inPtr.toNat + src.headerLength ≤ s.rewind.inLen.toNat := (Nat.zero_add _).trans_le hroom
  exact ⟨s.rewind.loaded src.nsym, _, _, hat.rdhdrBody_eq ⟨hsample, hmax, Nat.zero_le _⟩ hn hroom0, rfl,
    (State.loaded_inPtr_toNat (s := s.rewind) hroom0).trans (Nat.zero_add _), hat.loaded_ftAt⟩

/-- RDHDR and BUILD in DECOMPRESS (R243). -/
theorem decompress_tree {s src built : State} (hsample : s.inEnSample = true) (hmax : s.inLen.toNat ≤ s.cfg.ibufSize)
    (hn : 1 ≤ src.nsym) (hfit : src.ftTotal ≤ 2 ^ 64 - 1) (hbuilt : exec .build src = .next built)
    (hheader : s.ibufBytes 0 src.headerLength = src.headerBytes) (hroom : src.headerLength ≤ s.inLen.toNat) :
    ∃ u1 u2, rdhdrBody s.rewind = .ok u1 ∧ buildBody u1 = .ok u2 ∧ ArchiveTree s src built u2 := by
  obtain ⟨u1, ptr, ft, h1, hrest, hptr, htable⟩ := decompress_table hsample hmax hn hheader hroom
  have hsame := SameEntries.of_cleared htable
  obtain ⟨⟨q, h2⟩, htree, horder⟩ := buildBody_ok (hsame.nsym_eq.symm ▸ hn) (hsame.ftTotal_eq.symm ▸ hfit)
  refine ⟨u1, _, h1, h2, ?_, ?_, ⟨fun _ => ⟨htree, horder⟩, fun h => Bool.noConfusion h⟩, htable,
    hsame.treeCode_eq hn hfit hbuilt htree rfl rfl⟩
  · subst hrest
    rfl
  · subst hrest
    exact hptr

section ArchiveTree
variable {s src built u : State} (hu : ArchiveTree s src built u)
include hu

theorem ArchiveTree.cfg : u.cfg = s.cfg := (congrArg State.cfg hu.rest).trans rfl

theorem ArchiveTree.inLen : u.inLen = s.inLen := (congrArg State.inLen hu.rest).trans rfl

theorem ArchiveTree.inEnSample : u.inEnSample = s.inEnSample := (congrArg State.inEnSample hu.rest).trans rfl

theorem ArchiveTree.outPtr : u.outPtr.toNat = 0 := (congrArg (fun t => t.outPtr.toNat) hu.rest).trans rfl

theorem ArchiveTree.treeValid : u.treeValid = true := congrArg State.treeValid hu.rest

theorem ArchiveTree.codeValid : u.codeValid = false := congrArg State.codeValid hu.rest

theorem ArchiveTree.obufAt (k : Nat) : u.obufAt k = s.obufAt k := (congrArg (fun t => State.obufAt t k) hu.rest).trans rfl

theorem ArchiveTree.ibufBytes (i n : Nat) : u.ibufBytes i n = s.ibufBytes i n :=
  (congrArg (fun t => State.ibufBytes t i n) hu.rest).trans rfl

theorem ArchiveTree.treeOk : u.treeOk := (hu.tables.1 hu.treeValid).1

theorem ArchiveTree.sameEntries : SameEntries u src := .of_cleared hu.table

/-- DECODE in DECOMPRESS: the packed codes of a message after the header give the message back (R220, R243). -/
theorem ArchiveTree.decode {msg packed : List Byte} (hcfg : s.cfg.legal = true) (hsample : s.inEnSample = true)
    (hmax : s.inLen.toNat ≤ s.cfg.ibufSize) (hlen : msg.length = src.ftTotal)
    (hmsg : ∀ b ∈ msg, (src.ftAt b).present = true) (hpacked : packed = packBits (msg.flatMap built.treeCode))
    (hroom : src.headerLength + packed.length ≤ s.inLen.toNat)
    (hbytes : s.ibufBytes src.headerLength packed.length = packed) (hfits : msg.length ≤ s.cfg.obufSize) :
    ∃ t, decodeBody u = .ok t ∧ Appended u msg t ∧ t.inPtr.toNat = src.headerLength + packed.length := by
  have hcodes : msg.flatMap built.treeCode = msg.flatMap u.treeCode := by rw [funext hu.codes]
  rw [hcodes] at hpacked
  rw [← hu.cfg] at hcfg hmax hfits
  rw [← hu.inLen, ← hu.inPtr] at hroom
  rw [← hu.ibufBytes, ← hu.inPtr] at hbytes
  subst hpacked
  have hpresent : ∀ b ∈ msg, (u.ftAt b).present = true := fun b hb => (hu.sameEntries b).1.trans (hmsg b hb)
  obtain ⟨t, ht, happ, hptr⟩ := decodeBody_reads hcfg
    ⟨hu.inEnSample.trans hsample, (congrArg BitVec.toNat hu.inLen).trans_le hmax, by omega⟩ hu.treeValid hu.treeOk
    (hlen.trans hu.sameEntries.ftTotal_eq.symm) hpresent (inputBits_prefix hroom hbytes)
    (.inr (by rwa [hu.outPtr, Nat.zero_add]))
  rw [← packBits_length] at hptr
  exact ⟨t, ht, happ, by rw [hptr, State.readPast_toNat hroom, hu.inPtr]⟩

end ArchiveTree

/-- Settles O45: RDHDR reads the table, BUILD makes the tree of the same table, and DECODE reads the message back. -/
theorem decompressReadsArchive : Obligations.DecompressReadsArchive := by
  intro s src built msg packed hcfg hsample hmax hn hfit hbuilt hlen hmsg hpacked hroom hbytes hfits
  have hheader := s.ibufBytes_piece 0 (a := 0) (b := src.headerLength) (n := src.headerLength + packed.length) (by omega)
  rw [hbytes, List.drop_zero, List.take_left' src.headerBytes_length] at hheader
  have hmessage := s.ibufBytes_piece 0 (a := src.headerLength) (b := packed.length) le_rfl
  rw [hbytes, List.drop_left' src.headerBytes_length, List.take_length, Nat.zero_add] at hmessage
  obtain ⟨u1, u2, h1, h2, hu⟩ := decompress_tree hsample hmax hn hfit hbuilt hheader (by omega)
  obtain ⟨u3, h3, happ, hptr⟩ := hu.decode hcfg hsample hmax hlen hmsg hpacked hroom hmessage hfits
  have hbody := decompressBody_of_steps h1 h2 h3
  have hexec : exec .decompress s = .next u3.finish := congrArg (fun r => Host.Outcome.next (settle r)) hbody
  have hwrites := decodeBody_writes u2
  rw [h3] at hwrites
  have hwrites : Writes [.input, .output, .walker] u2 u3 := hwrites
  have hsame := hwrites.sameEngine
  have htv : u3.treeValid = true := (hsame.treeValid (by simp) (by simp)).trans hu.treeValid
  have hobuf := happ.obufBytes
  have hout := happ.outside
  have hoptr := happ.outPtr_toNat (hu.cfg ▸ hcfg)
  rw [hu.outPtr] at hobuf hout
  rw [hu.outPtr, Nat.zero_add] at hoptr
  exact ⟨_, hexec, finished_of_ok (decompressBody_reaches s) hbody, hobuf, hoptr, hptr, htv,
    (hsame.codeValid (by simp) (by simp) (by simp)).trans hu.codeValid, ((hwrites.keeps_tables hu.tables).1 htv).1,
    fun sym => (State.ftAt_congr (hsame.ft (by simp)) sym).trans (hu.table sym),
    fun k hk => (hout k (.inr (by omega))).trans (hu.obufAt k), (commandsLeaveHostSide _ s _ hexec).1⟩

/-! ### One symbol -/

/-- A state with the one symbol `sym` in its table, `c` times. -/
def State.withSymbol (s : State) (sym : Byte) (c : Count) : State := s.clearFt.putFt sym { present := true, count := c }

theorem State.withSymbol_ftAt (s : State) (sym b : Byte) (c : Count) :
    (s.withSymbol sym c).ftAt b = if b = sym then { present := true, count := c } else FtEntry.absent := by
  rw [State.withSymbol, State.ftAt_putFt, State.ftAt_clearFt]

theorem State.withSymbol_presentSyms (s : State) (sym : Byte) (c : Count) : (s.withSymbol sym c).presentSyms = [sym] := by
  refine List.perm_singleton.mp ((List.perm_ext_iff_of_nodup (State.presentSyms_nodup _) (List.nodup_singleton sym)).mpr
    fun b => ?_)
  rw [State.mem_presentSyms, State.withSymbol_ftAt, List.mem_singleton]
  by_cases hb : b = sym
  · simp [hb]
  · simp [hb, FtEntry.absent]

theorem State.withSymbol_nsym (s : State) (sym : Byte) (c : Count) : (s.withSymbol sym c).nsym = 1 := by
  rw [State.nsym_eq, State.withSymbol_presentSyms]
  rfl

theorem State.withSymbol_ftTotal (s : State) (sym : Byte) (c : Count) : (s.withSymbol sym c).ftTotal = c.toNat := by
  rw [State.ftTotal_eq, State.withSymbol_presentSyms, List.map_singleton, List.sum_singleton, State.withSymbol_ftAt,
    if_pos rfl]

theorem State.withSymbol_headerBytes (s : State) (sym : Byte) (c : Count) :
    (s.withSymbol sym c).headerBytes = magic ++ leBytes8 1#64 ++ sym :: leBytes8 c := by
  rw [State.headerBytes_eq, State.withSymbol_presentSyms, State.withSymbol_nsym, List.flatMap_singleton, State.entryBytes,
    State.withSymbol_ftAt, if_pos rfl, List.append_assoc]

/-- The code of the only symbol is empty (R192). -/
theorem treeCode_of_nsym_one {s : State} (h : s.treeOk) (hn : s.nsym = 1) {sym : Byte}
    (hsym : (s.ftAt sym).present = true) : s.treeCode sym = [] := by
  cases hroot : (nodeAt s.tree.nodes s.tree.root).leaf with
  | true => exact (leaf_root_code h hroot hsym).1
  | false =>
    have := two_le_nsym h hroot
    omega

/-- Settles O44: an archive of one symbol is its header, as the code of the symbol is empty. -/
theorem decompressSingleSymbolArchive : Obligations.DecompressSingleSymbolArchive := by
  intro s sym c hcfg hsample hmax hroom hbytes hfits
  have hnsym := s.withSymbol_nsym sym c
  have htotal := s.withSymbol_ftTotal sym c
  have hlength : (s.withSymbol sym c).headerLength = 20 := by rw [State.headerLength, hnsym]
  have hpresent : ((s.withSymbol sym c).ftAt sym).present = true := by rw [State.withSymbol_ftAt, if_pos rfl]
  have hfit : (s.withSymbol sym c).ftTotal ≤ 2 ^ 64 - 1 := htotal ▸ Nat.le_pred_of_lt c.isLt
  obtain ⟨built, hbuilt, -, -, -, htree, -, hft, -⟩ := buildMakesValidTree (s.withSymbol sym c) hnsym.ge hfit
  have hcode : built.treeCode sym = [] :=
    treeCode_of_nsym_one htree (by rw [State.nsym, hft]; exact hnsym) (by rw [State.ftAt_congr hft]; exact hpresent)
  have hmsg : ∀ b ∈ List.replicate c.toNat sym, b = sym := fun b hb => List.eq_of_mem_replicate hb
  have hbits : (List.replicate c.toNat sym).flatMap built.treeCode = [] :=
    List.flatMap_eq_nil_iff.mpr fun b hb => hmsg b hb ▸ hcode
  obtain ⟨t, hexec, hfin, hobuf, hoptr, hptr, htv, hcv, -, -, hout, hside⟩ :=
    decompressReadsArchive s (s.withSymbol sym c) built (List.replicate c.toNat sym) [] hcfg hsample hmax hnsym.ge hfit hbuilt
      (by rw [List.length_replicate, htotal]) (fun b hb => hmsg b hb ▸ hpresent) (by rw [hbits]; rfl)
      (by rw [hlength]; exact hroom) (by rw [hlength, State.withSymbol_headerBytes, List.append_nil]; exact hbytes)
      (by rwa [List.length_replicate])
  rw [List.length_replicate] at hobuf hoptr hout
  rw [hlength] at hptr
  exact ⟨t, hexec, hfin, htv, hcv, BitVec.eq_of_toNat_eq hptr, hoptr, hobuf, hout, hside⟩

end Sys2Proof.Machine
end

section
/-! SUPPORT. CLEAR and COUNT from acceptance to completion (R141 to R143). -/

namespace Sys2Proof.Machine

theorem execClear_eq (s : State) : exec .clear s = .next s.clearFt.finish := rfl

/-- A COUNT whose pseudocode has run to its end finishes (R268). -/
theorem execCount_of_ok {s u : State} (h : countBody s = .ok u) : exec .count s = .next u.finish :=
  congrArg (fun r => Host.Outcome.next (settle r)) h

/-- Settles O18: CLEAR is the emptied table and the completion step, which leaves the table as it is. -/
theorem clearEmptiesTable : Obligations.ClearEmptiesTable := by
  refine ⟨decode_word_clear, fun s => ⟨s.clearFt.finish, execClear_eq s, finished_of_ok (clearBody_reaches s) rfl, ?_, ?_,
    rfl, rfl, rfl, exec_sameOutput (execClear_eq s) rfl, (commandsLeaveHostSide _ _ _ (execClear_eq s)).1⟩⟩
  · intro sym
    rw [State.ftAt_finish, State.ftAt_clearFt]
  · have hnsym : s.clearFt.finish.nsym = 0 := by rw [State.nsym_finish, State.nsym_clearFt]
    exact congrArg (BitVec.ofNat 32) hnsym

/-- Settles O19: the loop's invariant `Counted` at its end says that the table is that of all the bytes left, and three facts
about such a table remain. -/
theorem countCountsInput : Obligations.CountCountsInput := by
  intro s hok
  obtain ⟨u, hu, hrest, htable⟩ := countBody_counts hok
  have hexec := execCount_of_ok hu
  have hlen : s.inputBytes.length = s.inLen.toNat - s.inPtr.toNat := s.ibufBytes_length _ _
  have hfits : s.inputBytes.length < 2 ^ 64 := by
    have := s.inLen.isLt
    omega
  have hptr : u.inPtr = s.inLen := (congrArg State.inPtr hrest).trans (State.readPast_inputLeft hok.2.2)
  refine ⟨u.finish, hexec, finished_of_ok (countBody_reaches s) hu, fun sym => ?_, nsym_of_counts htable,
    (ftTotal_of_counts htable hfits).trans hlen, hptr, congrArg State.treeValid hrest, congrArg State.codeValid hrest,
    exec_sameOutput hexec rfl, (commandsLeaveHostSide _ _ _ hexec).1⟩
  rw [State.ftAt_finish, htable]
  exact ⟨rfl, countEntry_toNat hfits sym⟩

end Sys2Proof.Machine
end

section
/-! SUPPORT. A header that RDHDR reads back: what a WRHDR without an error wrote is a header of the format, and RDHDR completes
on one (R160, R162). -/

namespace Sys2Proof.Machine

/-- A WRHDR that ends without an error had room for the whole header, as with less it aborts (R160). -/
theorem headerLength_le_of_wrhdr {s w : State} (hcfg : s.cfg.legal = true) (hexec : exec .wrhdr s = .next w)
    (hok : w.err = false) : s.outPtr.toNat + s.headerLength ≤ s.cfg.obufSize := by
  by_contra hroom
  obtain ⟨t, ht, habort, -⟩ := wrhdrOverflowKeepsPrefix s _ hcfg (not_le.mp hroom) rfl
  obtain ⟨-, -, herr, -⟩ := habort
  obtain rfl : w = t := Host.Outcome.next.inj (hexec.symm.trans ht)
  exact Bool.false_ne_true (hok.symm.trans herr)

/-- A WRHDR that ends without an error has written the header of the format. -/
theorem obufBytes_of_wrhdr {s w : State} (hcfg : s.cfg.legal = true) (hexec : exec .wrhdr s = .next w)
    (hok : w.err = false) : w.obufBytes s.outPtr.toNat s.headerLength = s.headerBytes := by
  obtain ⟨t, ht, -, hbytes, -⟩ := wrhdrWritesHeader s hcfg (headerLength_le_of_wrhdr hcfg hexec hok)
  obtain rfl : w = t := Host.Outcome.next.inj (hexec.symm.trans ht)
  exact hbytes

/-- A RDHDR whose pseudocode has run to its end finishes (R268). -/
theorem execRdhdr_of_ok {s u : State} (h : rdhdrBody s = .ok u) : exec .rdhdr s = .next u.finish :=
  congrArg (fun r => Host.Outcome.next (settle r)) h

/-- Settles O32: in either form of the hypothesis a header of the format stands at IN_PTR, and RDHDR has loaded its `n` entries
when it completes. -/
theorem rdhdrReadsHeaderBack : Obligations.RdhdrReadsHeaderBack := by
  intro s src hin hn hroom hbytes
  have hat : HeaderAt s src := by
    obtain hformat | ⟨w, hcfg, -, hwrhdr, hok, hcopied⟩ := hbytes
    · exact hformat
    · exact hcopied.trans (obufBytes_of_wrhdr hcfg hwrhdr hok)
  have hbody := hat.rdhdrBody_eq hin hn hroom
  have hexec := execRdhdr_of_ok hbody
  exact ⟨(s.loaded src.nsym).finish, hexec, finished_of_ok (rdhdrBody_reaches s) hbody, hat.loaded_ftAt,
    State.loaded_inPtr_toNat hroom, rfl, rfl, exec_sameOutput hexec rfl, (commandsLeaveHostSide _ _ _ hexec).1⟩

end Sys2Proof.Machine
end

section
/-! SUPPORT. Commands that end before their work: CODEGEN and DECODE without a tree, ENCODE without codes (R270), BUILD on a table
it cannot use (R181), and COMPRESS of an empty input (R242). -/

namespace Sys2Proof.Machine

/-! ### CODEGEN, DECODE and ENCODE -/

/-- DECODE past its start check, without a valid tree (R220). -/
theorem decodeBody_of_no_tree {s : State} (h : s.inputOk) (hv : s.treeValid = false) :
    decodeBody s = .error ⟨.cmdNoTree, 0x00000008, s⟩ := by
  rw [decodeBody, State.inputChecks_ok s h]
  exact if_pos hv

/-- ENCODE past its start check, without valid codes (R200). -/
theorem encodeBody_of_no_codes (z : Bool) {s : State} (h : s.inputOk) (hv : s.codeValid = false) :
    encodeBody z s = .error ⟨.cmdNoCode, commandWord z 0x06, s⟩ := by
  rw [encodeBody, State.inputChecks_ok s h]
  exact if_pos hv

/-- Settles O21: each of the three commands tests its validity bit before it does anything else. -/
theorem sequencingChecksRefuse : Obligations.SequencingChecksRefuse := by
  refine ⟨fun s hv => ?_, fun s h hv => ?_, fun s h hv => ⟨?_, ?_⟩⟩
  · exact congrArg settleStop (codegenBody_of_invalid hv)
  · exact congrArg (fun r => Host.Outcome.next (settle r)) (decodeBody_of_no_tree h hv)
  · exact congrArg (fun r => Host.Outcome.next (settle r)) (encodeBody_of_no_codes false h hv)
  · exact congrArg (fun r => Host.Outcome.next (settle r)) (encodeBody_of_no_codes true h hv)

/-! ### BUILD -/

/-- BUILD on an empty table (R181). -/
theorem buildBody_of_empty {s : State} (h : s.nsym = 0) :
    buildBody s = .error ⟨.idEmptyTable, 0, s.invalidateTree⟩ :=
  if_pos h

/-- BUILD on a non-empty table whose total does not fit 64 bits (R181). -/
theorem buildBody_of_overflow {s : State} (h : s.nsym ≠ 0) (hover : 2 ^ 64 - 1 < s.ftTotal) :
    buildBody s = .error ⟨.idWeightOvf, 0, s.invalidateTree⟩ :=
  (if_neg h).trans (if_pos hover)

/-- Settles O23: both errors are raised right after the validity bits are cleared. -/
theorem buildRefusesBadTables : Obligations.BuildRefusesBadTables := by
  refine fun s => ⟨fun h => ?_, fun h hover => ?_⟩
  · exact congrArg (fun r => Host.Outcome.next (settle r)) (buildBody_of_empty h)
  · exact congrArg (fun r => Host.Outcome.next (settle r)) (buildBody_of_overflow h hover)

/-! ### COMPRESS -/

/-- An error of BUILD ends COMPRESS (R240). -/
theorem compressBody_of_build_error {z : Bool} {s u : State} {e : Raise} (hcount : countBody s.rewind = .ok u)
    (hbuild : buildBody u = .error e) : compressBody z s = .error (.raised e) := by
  rw [compressBody, hcount]
  change (liftRun (buildBody u) >>= _) = _
  rw [hbuild]
  rfl

/-- Settles O42: COUNT of no bytes leaves an empty table, which BUILD refuses. -/
theorem compressRefusesEmptyInput : Obligations.CompressRefusesEmptyInput := by
  intro z s hsample hlen
  have hlen0 : s.inLen.toNat = 0 := congrArg BitVec.toNat hlen
  obtain ⟨u, ft, hcount, rfl, htable⟩ := countBody_rewind hsample (hlen0.trans_le (Nat.zero_le _))
  rw [hlen0] at htable
  have hnsym := nsym_of_counts htable
  have hbody := compressBody_of_build_error (z := z) hcount (buildBody_of_empty hnsym)
  exact ⟨_, congrArg settleStop hbody, ⟨rfl, rfl, rfl, rfl, rfl⟩, rfl, hlen, fun _ => rfl, hnsym, rfl, rfl⟩

end Sys2Proof.Machine
end

section
/-! SUPPORT. BUILD depends on the frequency table alone (R183), and no code is the beginning of another (R191). -/

namespace Sys2Proof.Machine

/-! ### The tree of a table -/

/-- BUILD ends with a valid tree exactly when the table is not empty and its total fits 64 bits, and then it is the tree of the
table (R181). -/
theorem exec_build_result {s t : State} (h : exec .build s = .next t) :
    (t.treeValid = true ↔ 1 ≤ s.nsym ∧ s.ftTotal ≤ 2 ^ 64 - 1) ∧ (t.treeValid = true → t.tree = s.builtTree) := by
  obtain rfl : settle (buildBody s) = t := Host.Outcome.next.inj h
  by_cases hempty : s.nsym = 0
  · rw [buildBody_of_empty hempty]
    exact ⟨iff_of_false Bool.false_ne_true (by omega), fun hv => nomatch hv⟩
  by_cases hover : 2 ^ 64 - 1 < s.ftTotal
  · rw [buildBody_of_overflow hempty hover]
    exact ⟨iff_of_false Bool.false_ne_true (by omega), fun hv => nomatch hv⟩
  have hn : 1 ≤ s.nsym := Nat.one_le_iff_ne_zero.mpr hempty
  have hfit := Nat.le_of_not_lt hover
  obtain ⟨⟨q, hbuild⟩, -⟩ := buildBody_ok hn hfit
  rw [hbuild]
  exact ⟨iff_of_true rfl ⟨hn, hfit⟩, fun _ => rfl⟩

theorem SameEntries.of_ft_eq {s t : State} (h : s.ft = t.ft) : SameEntries s t := fun sym =>
  ⟨congrArg FtEntry.present (State.ftAt_congr h sym), fun _ => State.ftAt_congr h sym⟩

/-- Settles O25: whether BUILD makes a tree, and which, are both read off the entries of the table. -/
theorem buildDependsOnTableOnly : Obligations.BuildDependsOnTableOnly := by
  intro s s' t t' hft ht ht'
  have hsame := SameEntries.of_ft_eq hft
  obtain ⟨hvalid, htree⟩ := exec_build_result ht
  obtain ⟨hvalid', htree'⟩ := exec_build_result ht'
  rw [hsame.nsym_eq, hsame.ftTotal_eq] at hvalid
  have hiff : t.treeValid = true ↔ t'.treeValid = true := hvalid.trans hvalid'.symm
  obtain ⟨hroot, hcount, hnodes⟩ := hsame.builtTree
  refine ⟨Bool.eq_iff_iff.mpr hiff, fun hv => ?_⟩
  simp only [State.node, htree hv, htree' (hiff.mp hv)]
  exact ⟨hroot, hcount, fun i hi => hnodes _ ((Nat.mod_le i 511).trans_lt (hcount ▸ hi))⟩

/-! ### Prefixes -/

/-- Two paths from one node, the first a beginning of the second, lead to the same leaf. -/
theorem State.LeadsTo.sym_eq_of_prefix {s : State} {a b : Byte} {j : NodeIx} {p q : List Bool} (ha : s.LeadsTo a j p)
    (hb : s.LeadsTo b j q) (hpq : p <+: q) : a = b := by
  induction p generalizing j q with
  | nil =>
    obtain ⟨hleaf, rfl⟩ := ha
    cases q with
    | nil => exact hb.2
    | cons c q => exact absurd (hb.1.symm.trans hleaf) Bool.false_ne_true
  | cons c p ih =>
    obtain ⟨more, rfl⟩ := hpq
    exact ih ha.2 hb.2 (List.prefix_append p more)

/-- Settles O27: both codes are paths from the root, and a path ends at the first leaf it meets. -/
theorem codesArePrefixFree : Obligations.CodesArePrefixFree := by
  intro s ⟨htree, hcodes⟩ hv a b hab ha hb hprefix
  obtain ⟨hvalid, hok⟩ := hcodes hv
  obtain ⟨htreeOk, -⟩ := htree hvalid
  exact hab ((leadsTo_code htreeOk hok ha).sym_eq_of_prefix (leadsTo_code htreeOk hok hb) hprefix)

end Sys2Proof.Machine
end

section
/-! SUPPORT. ENCODE that ends well (R202): all its input is coded, so what it appends is the packed bits of all of it. -/

namespace Sys2Proof.Machine

/-- A piece of pseudocode that ends well is two pieces that do. -/
theorem ok_of_bind {ε α β : Type} {r : Except ε α} {f : α → Except ε β} {b : β} (h : r >>= f = .ok b) :
    ∃ a, r = .ok a ∧ f a = .ok b := by
  cases r with
  | ok a => exact ⟨a, rfl, h⟩
  | error e => exact nomatch h

/-- Pseudocode that begins with the start check ends well only where the check passes (R263). -/
theorem inputOk_of_ok {α : Type} {s : State} {f : Unit → Run α} {a : α} (h : s.inputChecks >>= f = .ok a) : s.inputOk := by
  obtain ⟨_, hchecks, -⟩ := ok_of_bind h
  obtain ⟨hok, -⟩ | ⟨-, he⟩ | ⟨-, -, he⟩ := s.inputChecks_cases
  · exact hok
  · exact nomatch he.symm.trans hchecks
  · exact nomatch he.symm.trans hchecks

/-- The loop ends well only if it finds a code for every byte (R200). -/
theorem coded_of_encodeLoop_ok {s t u : State} {j : Nat} (k : Nat) (h : Packing s j (s.codeBits j) t)
    (hcfg : s.cfg.legal = true) (hk : s.inPtr.toNat + (j + k) ≤ s.inLen.toNat) (hok : encodeLoop k t = .ok u) :
    ∀ i < k, (codeAt s.codes (s.ibufAt (s.inPtr.toNat + (j + i)))).has = true := by
  induction k generalizing j t with
  | zero => exact fun i hi => absurd hi (Nat.not_lt_zero i)
  | succ k ih =>
    have hj : s.inPtr.toNat + j < s.inLen.toNat := by omega
    obtain ⟨v, hone, hrest⟩ := ok_of_bind hok
    have hhas : (codeAt s.codes (s.ibufAt (s.inPtr.toNat + j))).has = true := by
      by_contra hno
      exact nomatch (encodeOne_uncoded h hj (Bool.eq_false_of_not_eq_true hno)).symm.trans hone
    have hpack := encodeOne_packs h hcfg hj hhas
    rw [hone] at hpack
    intro i hi
    cases i with
    | zero => exact hhas
    | succ i =>
      rw [show j + (i + 1) = j + 1 + i by omega]
      exact ih hpack (by omega) hrest i (by omega)

/-- ENCODE ends well only from a state in which it can code all its input (R200, R263). -/
theorem encodeBody_ok {z : Bool} {s u : State} (hcfg : s.cfg.legal = true) (hok : encodeBody z s = .ok u) :
    s.inputOk ∧ s.codeValid = true ∧ ∀ b ∈ s.inputBytes, (codeAt s.codes b).has = true := by
  have hin : s.inputOk := inputOk_of_ok hok
  have hv : s.codeValid = true := by
    by_contra hv
    exact nomatch (encodeBody_of_no_codes z hin (Bool.eq_false_of_not_eq_true hv)).symm.trans hok
  refine ⟨hin, hv, ?_⟩
  rw [encodeBody_eq hin hv] at hok
  obtain ⟨t, hloop, -⟩ := ok_of_bind hok
  have hcoded := coded_of_encodeLoop_ok s.inputLeft (.start s) hcfg
    (by rw [Nat.zero_add]; exact (Nat.add_sub_cancel' hin.2.2).le) hloop
  intro b hb
  obtain ⟨i, hi, rfl⟩ := List.mem_map.mp hb
  rw [← Nat.zero_add i]
  exact hcoded i (List.mem_range.mp hi)

/-- Settles O35: an ENCODE that ends well has coded all its input, and one that can code it all, with room for the output,
ends well. -/
theorem encodePacksCodes : Obligations.EncodePacksCodes := by
  constructor
  · intro z s t hcfg _ hexec herr
    obtain ⟨u, hbody, rfl⟩ := settle_of_err (Host.Outcome.next.inj hexec) herr
    obtain ⟨hin, hv, hhas⟩ := encodeBody_ok hcfg hbody
    have hpost := encodeBody_packs z hcfg hin hv hhas
    rw [hbody] at hpost
    obtain ⟨happ, hptr, -⟩ := hpost
    exact ⟨happ.finish.obufBytes, happ.finish.outPtr_toNat hcfg, hptr⟩
  · rintro z s _ hcfg hin hv hhas rfl hroom
    obtain ⟨u, hbody, happ, hptr, hacc, hnacc⟩ := (encodeBody_packs z hcfg hin hv hhas).ok_of_fits hroom
    have hexec : exec (.encode z) s = .next u.finish := congrArg (fun r => Host.Outcome.next (settle r)) hbody
    have happ := happ.finish
    exact ⟨_, hexec, finished_of_ok (encodeBody_reaches z s) hbody, happ.obufBytes, happ.outPtr_toNat hcfg, hptr,
      happ.outside, sameTables_of_exec hexec (by simp [commandParts]) (by simp [commandParts]) (by simp [commandParts]),
      (commandsLeaveHostSide _ s _ hexec).1, hacc, hnacc⟩

end Sys2Proof.Machine
end

section
/-! SUPPORT. DECOMPRESS of what COMPRESS wrote (R225): the archive a COMPRESS without an error leaves, and DECODE of packed bits
that lack a last byte (R201, R223). -/

namespace Sys2Proof.Machine

/-! ### The archive of COMPRESS -/

/-- A completion step without an error is that of a body that ends well, also where the body walks the arena (R265, R268). -/
theorem settleStop_of_err {r : Except Stop State} {t : State} (h : settleStop r = .next t) (herr : t.err = false) :
    ∃ u, r = .ok u ∧ t = u.finish := by
  match r with
  | .ok u => exact ⟨u, rfl, (Host.Outcome.next.inj h).symm⟩
  | .error (.raised e) =>
    obtain rfl := Host.Outcome.next.inj h
    exact nomatch herr
  | .error (.stuck f) => exact nomatch h

/-- Inside pseudocode that can get stuck, a piece that cannot ends well only as it does by itself. -/
theorem liftRun_eq_ok {α : Type} {r : Run α} {a : α} (h : liftRun r = .ok a) : r = .ok a := by
  cases r with
  | ok b => exact congrArg _ (Except.ok.inj h)
  | error e => exact nomatch h

/-- A COMPRESS that ends well is its five steps, which do (R242). -/
theorem compressBody_ok {z : Bool} {s u5 : State} (h : compressBody z s = .ok u5) :
    ∃ u1 u2 u3 u4, countBody s.rewind = .ok u1 ∧ buildBody u1 = .ok u2 ∧ codegenBody u2 = .ok u3 ∧ wrhdrBody u3 = .ok u4 ∧
      encodeBody z { u4 with inPtr := 0 } = .ok u5 := by
  obtain ⟨u1, h1, h⟩ := ok_of_bind h
  obtain ⟨u2, h2, h⟩ := ok_of_bind h
  obtain ⟨u3, h3, h⟩ := ok_of_bind h
  obtain ⟨u4, h4, h5⟩ := ok_of_bind h
  exact ⟨u1, u2, u3, u4, liftRun_eq_ok h1, liftRun_eq_ok h2, h3, liftRun_eq_ok h4, liftRun_eq_ok h5⟩

/-- Bytes that have all been emitted are appended (R77). -/
theorem Appended.of_emitMany_ok {s t : State} {bs : List Byte} (hcfg : s.cfg.legal = true)
    (h : State.emitMany bs s = .ok t) : t = s.wrote bs ∧ Appended s bs t := by
  have hsize := State.obufSize_le hcfg
  by_cases hroom : s.outPtr.toNat + bs.length ≤ s.cfg.obufSize
  · obtain rfl := Except.ok.inj ((State.emitMany_ok bs s hroom hsize).symm.trans h)
    exact ⟨rfl, .of_wrote (.inr hroom)⟩
  · cases bs with
    | nil =>
      obtain rfl := Except.ok.inj h
      exact ⟨s.wrote_nil.symm, .nil s⟩
    | cons b bs => exact nomatch (State.emitMany_full _ s (Nat.lt_of_not_le hroom) (List.cons_ne_nil b bs) hsize).symm.trans h

/-- A COMPRESS that ends well has appended the header and the packed input to an empty output (R242). -/
theorem CodedInput.appended_of_ok {z : Bool} {s u u4 u5 : State} (hu : CodedInput s (s.ibufBytes 0 s.inLen.toNat) u)
    (hcfg : s.cfg.legal = true) (h4 : wrhdrBody u = .ok u4) (h5 : encodeBody z { u4 with inPtr := 0 } = .ok u5) :
    Appended u (u.headerBytes ++ packedOutput z (u.messageBits (s.ibufBytes 0 s.inLen.toNat))) u5 := by
  have hucfg : u.cfg.legal = true := hu.cfg ▸ hcfg
  rw [wrhdrBody_eq_emitMany] at h4
  obtain ⟨rfl, happ⟩ := Appended.of_emitMany_ok hucfg h4
  obtain ⟨hin, hv, hhas⟩ := encodeBody_ok (s := (u.wrote u.headerBytes).restarted) hucfg h5
  have hpost := encodeBody_packs z (s := (u.wrote u.headerBytes).restarted) hucfg hin hv hhas
  rw [show encodeBody z (u.wrote u.headerBytes).restarted = .ok u5 from h5, hu.inputBytes] at hpost
  obtain ⟨happ5, -⟩ := hpost
  exact (happ.same (u := (u.wrote u.headerBytes).restarted)).trans hucfg happ5

/-- In a valid code table the code of a symbol is the one its tree gives it (R59, R190). -/
theorem treeCode_eq_code {s : State} (h : s.treeOk) (hcodes : s.codesOk) {sym : Byte} (hsym : (s.ftAt sym).present = true) :
    s.treeCode sym = (codeAt s.codes sym).code := by
  obtain ⟨-, -, -, -, -, ⟨-, -, hall⟩, -, -⟩ := id h
  obtain ⟨i, hi, hisym⟩ := hall sym (mem_allSymbols sym) hsym
  have hfind : ∃ k, (List.range s.nsym).find? (fun i => (s.node i).sym == sym) = some k :=
    Option.isSome_iff_exists.mp (List.find?_isSome.mpr ⟨i, hi, beq_iff_eq.mpr hisym⟩)
  obtain ⟨k, hk⟩ := hfind
  have hksym : (s.node k).sym = sym := by simpa using List.find?_some hk
  obtain ⟨hpath, -⟩ := hcodes.2 k (List.mem_range.mp (List.mem_of_find?_eq_some hk))
  rw [State.treeCode, hk, Option.bind_some, hpath, Option.getD_some, hksym]

theorem State.treeCode_congr {s t : State} (hft : t.ft = s.ft) (htree : t.tree = s.tree) (sym : Byte) :
    t.treeCode sym = s.treeCode sym := by
  simp only [State.treeCode, State.nsym, State.node, hft, htree]

/-- BUILD and CODEGEN in COMPRESS keep the table, and CODEGEN the tree (R242). -/
theorem table_of_build_codegen {u1 u2 u3 : State} (h2 : buildBody u1 = .ok u2) (h3 : codegenBody u2 = .ok u3) :
    u2.ft = u1.ft ∧ u3.ft = u2.ft ∧ u3.tree = u2.tree := by
  have hw2 := buildBody_writes u1
  have hw3 := codegenBody_writes u2
  rw [h2] at hw2
  rw [h3] at hw3
  have hbuild := Writes.sameEngine (K := [.tree]) (s := u1) (t := u2) hw2
  have hcodegen := Writes.sameEngine (K := [.codes]) (s := u2) (t := u3) hw3
  exact ⟨hbuild.ft (by simp), hcodegen.ft (by simp), (hcodegen.tree (by simp)).1⟩

/-- The archive in the output of `t` is that of the input of `s`: the header of the table `src` and the packed codes of the
tree `built` (R120, R128). -/
structure CompressedAs (z : Bool) (s t src built : State) : Prop where
  table : ∀ sym, src.ftAt sym = countEntry (s.ibufBytes 0 s.inLen.toNat) sym
  build : exec .build src = .next built
  codes : t.messageBits (s.ibufBytes 0 s.inLen.toNat) = (s.ibufBytes 0 s.inLen.toNat).flatMap built.treeCode
  bytes : t.obufBytes 0 t.outPtr.toNat =
    src.headerBytes ++ packedOutput z (t.messageBits (s.ibufBytes 0 s.inLen.toNat))

/-- A COMPRESS that ends well leaves the archive of its input (R242). -/
theorem exists_compressedAs {z : Bool} {s t : State} (hcfg : s.cfg.legal = true) (hsample : s.inEnSample = true)
    (hmin : 1 ≤ s.inLen.toNat) (hmax : s.inLen.toNat ≤ s.cfg.ibufSize) (hexec : exec (.compress z) s = .next t)
    (herr : t.err = false) : ∃ src built, CompressedAs z s t src built := by
  obtain ⟨u5, hbody, rfl⟩ := settleStop_of_err hexec herr
  obtain ⟨u1, u2, u3, u4, h1, h2, h3, h4, h5⟩ := compressBody_ok hbody
  obtain ⟨v1, v2, v3, g1, g2, g3, hu⟩ := compress_codes hsample hmin hmax
  obtain rfl := Except.ok.inj (h1.symm.trans g1)
  obtain rfl := Except.ok.inj (h2.symm.trans g2)
  obtain rfl := Except.ok.inj (h3.symm.trans g3)
  obtain ⟨hft2, hft3, htree3⟩ := table_of_build_codegen h2 h3
  have hft : u3.ft = u1.ft := hft3.trans hft2
  have hcodes5 : u5.codes = u3.codes := (compress_writes_parts h4 h5).sameEngine.codes (by simp)
  obtain ⟨htree, -⟩ := hu.tables.1 hu.treeValid
  obtain ⟨-, hcodes⟩ := hu.tables.2 hu.codeValid
  have happ := hu.appended_of_ok hcfg h4 h5
  have hoptr := happ.outPtr_toNat (hu.cfg ▸ hcfg)
  have hobuf := happ.obufBytes
  rw [hu.outPtr, Nat.zero_add] at hoptr
  rw [hu.outPtr, ← hoptr] at hobuf
  refine ⟨u1, u2.finish, fun sym => (State.ftAt_congr hft.symm sym).trans (hu.table sym),
    congrArg (fun r => Host.Outcome.next (settle r)) h2, ?_, ?_⟩
  · rw [State.messageBits_congr (t := u5.finish) hcodes5]
    refine List.flatMap_congr fun b hb => ?_
    have hpresent : (u3.ftAt b).present = true := by
      rw [hu.table]
      exact List.contains_iff_mem.mpr hb
    rw [← treeCode_eq_code htree hcodes hpresent]
    exact State.treeCode_congr (s := u2.finish) hft3 htree3 b
  · rw [State.messageBits_congr (t := u5.finish) hcodes5, ← State.headerBytes_congr hft]
    exact hobuf

/-! ### Packed bits that lack a byte -/

/-- The full bytes of a bit sequence unpack to its beginning, up to the last multiple of 8 bits. -/
theorem unpackBits_fullBytes (bits : List Bool) : unpackBits (fullBytes bits) <+: bits := by
  have hfull : unpackBits (fullBytes bits) <+: unpackBits (packBits bits) := by
    rw [fullBytes_eq_take]
    conv_rhs => rw [← List.take_append_drop (bits.length / 8) (packBits bits)]
    exact ⟨_, List.flatMap_append.symm⟩
  refine List.prefix_of_prefix_length_le hfull (unpackBits_packBits_prefix bits) ?_
  rw [unpackBits_length, fullBytes_length]
  omega

/-- The walk of a proper beginning of a message's codes misses a symbol of it. -/
theorem walked_length_lt {s : State} (h : s.treeOk) (hn : 2 ≤ s.nsym) {msg : List Byte} {bits : List Bool}
    (hmsg : ∀ b ∈ msg, (s.ftAt b).present = true) (hpre : bits <+: msg.flatMap s.treeCode)
    (hshort : bits.length < (msg.flatMap s.treeCode).length) : (s.walked bits).1.length < msg.length := by
  rcases List.eq_nil_or_concat msg with rfl | ⟨init, sym, rfl⟩
  · exact absurd hshort (Nat.not_lt_zero _)
  · rw [List.concat_eq_append] at hmsg hpre hshort ⊢
    have hsym : (s.ftAt sym).present = true := hmsg sym (by simp)
    have hne := treeCode_ne_nil h hn hsym
    have hbits : bits <+: init.flatMap s.treeCode ++ (s.treeCode sym).dropLast := by
      rw [List.flatMap_append, List.flatMap_singleton] at hpre hshort
      refine List.prefix_of_prefix_length_le hpre ?_ ?_
      · exact (List.prefix_append_right_inj _).mpr (List.dropLast_prefix _)
      · rw [List.length_append] at hshort
        rw [List.length_append, List.length_dropLast]
        omega
    have hproper := walked_message_proper h hn (fun b hb => hmsg b (List.mem_append_left _ hb)) hsym
      (List.dropLast_prefix (s.treeCode sym)) fun he => hne (by
        have := congrArg List.length he
        rw [List.length_dropLast] at this
        exact List.eq_nil_of_length_eq_zero (by omega))
    calc (s.walked bits).1.length ≤ (s.walked (init.flatMap s.treeCode ++ (s.treeCode sym).dropLast)).1.length :=
          (walked_prefix hbits).length_le
      _ = init.length := by rw [hproper]
      _ < (init ++ [sym]).length := by simp

/-- A last byte that the flush drops leaves the full bytes alone (R126, R201). -/
theorem packedOutput_of_dropped {z : Bool} {bits : List Bool} (h : packedOutput z bits ≠ packBits bits) :
    bits.length % 8 ≠ 0 ∧ packedOutput z bits = fullBytes bits := by
  rw [packedOutput] at h ⊢
  split at h
  next hdrop =>
    obtain ⟨-, hpartial, -⟩ := id hdrop
    exact ⟨hpartial, by rw [if_pos hdrop, packBits_eq, if_neg hpartial, List.dropLast_concat]⟩
  next => exact absurd rfl h

/-- IBUF in two parts. -/
theorem State.ibufBytes_eq_append {s : State} {i a : Nat} {front back : List Byte} (ha : front.length = a)
    (h : s.ibufBytes i (a + back.length) = front ++ back) :
    s.ibufBytes i a = front ∧ s.ibufBytes (i + a) back.length = back := by
  have hfront := s.ibufBytes_piece i (a := 0) (b := a) (n := a + back.length) (by omega)
  have hback := s.ibufBytes_piece i (a := a) (b := back.length) le_rfl
  rw [h, List.drop_zero, List.take_left' ha] at hfront
  rw [h, List.drop_left' ha, List.take_length] at hback
  exact ⟨hfront, hback⟩

/-- DECOMPRESS is DECODE once RDHDR and BUILD have ended well (R243). -/
theorem decompressBody_of_tree {s u1 u2 : State} (h1 : rdhdrBody s.rewind = .ok u1) (h2 : buildBody u1 = .ok u2) :
    decompressBody s = decodeBody u2 := by
  rw [decompressBody, h1]
  change (buildBody u1 >>= decodeBody) = _
  rw [h2]
  rfl

/-- DECODE in DECOMPRESS: when only the full bytes of the codes stand after the header, the last symbol is missing (R223, R225). -/
theorem ArchiveTree.truncated {s src built u : State} (hu : ArchiveTree s src built u) {msg : List Byte}
    (hcfg : s.cfg.legal = true) (hsample : s.inEnSample = true) (hmax : s.inLen.toNat ≤ s.cfg.ibufSize)
    (hlen : msg.length = src.ftTotal) (hmsg : ∀ b ∈ msg, (src.ftAt b).present = true)
    (hpartial : (msg.flatMap built.treeCode).length % 8 ≠ 0) {full : List Byte}
    (hfull : full = fullBytes (msg.flatMap built.treeCode)) (hend : s.inLen.toNat = src.headerLength + full.length)
    (hbytes : s.ibufBytes src.headerLength full.length = full) (hfits : msg.length ≤ s.cfg.obufSize) :
    ∃ e, decodeBody u = .error e ∧ e.cause = .idStreamTrunc ∧ e.info = e.state.outPtr := by
  have hcodes : msg.flatMap built.treeCode = msg.flatMap u.treeCode := by rw [funext hu.codes]
  have hpresent : ∀ b ∈ msg, (u.ftAt b).present = true := fun b hb => (hu.sameEntries b).1.trans (hmsg b hb)
  have hin : u.inputOk := ⟨hu.inEnSample.trans hsample, by rwa [hu.inLen, hu.cfg], by rw [hu.inLen, hu.inPtr]; omega⟩
  have hn : 2 ≤ u.nsym := by
    refine two_le_nsym hu.treeOk (Bool.eq_false_of_not_eq_true fun hroot => hpartial ?_)
    rw [hcodes, List.flatMap_eq_nil_iff.mpr fun b hb => (leaf_root_code hu.treeOk hroot (hpresent b hb)).1]
    rfl
  have hinput : u.inputBits = unpackBits (fullBytes (msg.flatMap u.treeCode)) := by
    have hleft : u.inputLeft = full.length := by
      rw [State.inputLeft, hu.inLen, hu.inPtr, hend, Nat.add_sub_cancel_left]
    have hinputBytes : u.inputBytes = u.ibufBytes u.inPtr.toNat u.inputLeft := rfl
    rw [State.inputBits, hinputBytes, hleft, hu.inPtr, hu.ibufBytes, hbytes, hfull, hcodes]
  have hmissing : (u.walked u.inputBits).1.length < msg.length := by
    refine walked_length_lt hu.treeOk hn hpresent (hinput ▸ unpackBits_fullBytes _) ?_
    rw [hinput, unpackBits_length, fullBytes_length, ← hcodes]
    omega
  obtain ⟨e, hbody, hcause, hinfo, happ, -⟩ := decode_truncated (hu.cfg ▸ hcfg) hin hu.treeValid hu.treeOk hn rfl
    (by rwa [hu.sameEntries.ftTotal_eq, ← hlen]) (by rw [hu.outPtr, hu.cfg]; omega)
  refine ⟨e, hbody, hcause, ?_⟩
  have hstart : u.outPtr = 0#32 := BitVec.eq_of_toNat_eq hu.outPtr
  rw [hinfo, happ.outPtr, State.wrote_outPtr, hstart, BitVec.zero_add]
  rfl

/-! ### There and back -/

section CompressedAs
variable {z : Bool} {s t src built : State} (hc : CompressedAs z s t src built)
include hc

theorem CompressedAs.ftTotal : src.ftTotal = s.inLen.toNat := by
  have hlen := s.ibufBytes_length 0 s.inLen.toNat
  rw [ftTotal_of_counts hc.table (by omega), hlen]

theorem CompressedAs.one_le_nsym (hmin : 1 ≤ s.inLen.toNat) : 1 ≤ src.nsym := by
  have hlen := s.ibufBytes_length 0 s.inLen.toNat
  rw [nsym_of_counts hc.table, Nat.one_le_iff_ne_zero, Ne, List.length_eq_zero_iff, List.dedup_eq_nil,
    ← List.length_eq_zero_iff]
  omega

theorem CompressedAs.present {b : Byte} (hb : b ∈ s.ibufBytes 0 s.inLen.toNat) : (src.ftAt b).present = true := by
  rw [hc.table]
  exact List.contains_iff_mem.mpr hb

theorem CompressedAs.length :
    t.outPtr.toNat = src.headerLength + (packedOutput z (t.messageBits (s.ibufBytes 0 s.inLen.toNat))).length := by
  have hlen := congrArg List.length hc.bytes
  rwa [List.length_append, State.headerBytes_length, State.obufBytes, List.length_map, List.length_range] at hlen

end CompressedAs

/-- The input of `u` is the archive in the output of `t`. -/
structure HoldsArchive (u t : State) : Prop where
  legal : u.cfg.legal = true
  sample : u.inEnSample = true
  inLen : u.inLen = t.outPtr
  max : u.inLen.toNat ≤ u.cfg.ibufSize
  bytes : u.ibufBytes 0 u.inLen.toNat = t.obufBytes 0 t.outPtr.toNat

section Decompress
variable {z : Bool} {s t src built u : State} (hc : CompressedAs z s t src built) (hu : HoldsArchive u t)
include hc hu

/-- The held archive is the header and the packed output of ENCODE. -/
theorem CompressedAs.held {out : List Byte} (hout : out = packedOutput z (t.messageBits (s.ibufBytes 0 s.inLen.toNat))) :
    u.inLen.toNat = src.headerLength + out.length ∧ u.ibufBytes 0 (src.headerLength + out.length) = src.headerBytes ++ out := by
  have hbytes := hu.bytes
  have hlen : u.inLen.toNat = src.headerLength + out.length := by rw [hu.inLen, hc.length, hout]
  rw [hc.bytes, hlen, ← hout] at hbytes
  exact ⟨hlen, hbytes⟩

/-- DECOMPRESS of an archive with all its packed bits (R225). -/
theorem CompressedAs.decompress (hmin : 1 ≤ s.inLen.toNat) (hfits : s.inLen.toNat ≤ u.cfg.obufSize)
    (hwhole : packedOutput z (t.messageBits (s.ibufBytes 0 s.inLen.toNat)) =
      packBits (t.messageBits (s.ibufBytes 0 s.inLen.toNat))) :
    ∃ v, exec .decompress u = .next v ∧ finished u v ∧ v.outPtr = s.inLen ∧
      v.obufBytes 0 s.inLen.toNat = s.ibufBytes 0 s.inLen.toNat := by
  have htotal := hc.ftTotal
  have hmsg := s.ibufBytes_length 0 s.inLen.toNat
  obtain ⟨hend, hbytes⟩ := hc.held hu rfl
  rw [hwhole] at hend hbytes
  obtain ⟨v, hv, hfinished, hout, hoptr, -⟩ := decompressReadsArchive u src built _ _ hu.legal hu.sample hu.max
    (hc.one_le_nsym hmin) (by omega) hc.build (hmsg.trans htotal.symm) (fun _ hb => hc.present hb)
    (congrArg packBits hc.codes) hend.ge hbytes (by omega)
  rw [hmsg] at hout hoptr
  exact ⟨v, hv, hfinished, BitVec.eq_of_toNat_eq hoptr, hout⟩

/-- DECOMPRESS of an archive that lacks the last byte of its packed bits (R223, R225). -/
theorem CompressedAs.decompress_dropped (hmin : 1 ≤ s.inLen.toNat) (hfits : s.inLen.toNat ≤ u.cfg.obufSize)
    (hdrop : packedOutput z (t.messageBits (s.ibufBytes 0 s.inLen.toNat)) ≠
      packBits (t.messageBits (s.ibufBytes 0 s.inLen.toNat))) :
    ∃ v, exec .decompress u = .next v ∧ aborted u v .idStreamTrunc v.outPtr := by
  have htotal := hc.ftTotal
  have hmsg := s.ibufBytes_length 0 s.inLen.toNat
  obtain ⟨hpartial, hfull⟩ := packedOutput_of_dropped hdrop
  rw [hc.codes] at hpartial
  obtain ⟨hend, hbytes⟩ := hc.held hu hfull.symm
  obtain ⟨hheader, hrest⟩ := State.ibufBytes_eq_append src.headerBytes_length hbytes
  rw [Nat.zero_add] at hrest
  obtain ⟨u1, u2, h1, h2, htree⟩ :=
    decompress_tree hu.sample hu.max (hc.one_le_nsym hmin) (by omega) hc.build hheader (by omega)
  obtain ⟨e, h3, hcause, hinfo⟩ := htree.truncated hu.legal hu.sample hu.max (hmsg.trans htotal.symm)
    (fun _ hb => hc.present hb) hpartial (congrArg fullBytes hc.codes) hend hrest (by omega)
  have hbody : decompressBody u = .error e := (decompressBody_of_tree h1 h2).trans h3
  have habort := aborted_of_error (decompressBody_reaches u) hbody
  have hexec : exec .decompress u = .next (settle (decompressBody u)) := rfl
  rw [hcause, hinfo, hbody] at habort
  rw [hbody] at hexec
  exact ⟨_, hexec, habort⟩

end Decompress

/-- Settles O46: the archive is that of the input, so DECOMPRESS gives the input back from its whole packed bits, and finds the
last symbol missing without the last byte of them. -/
theorem decompressInvertsCompress : Obligations.DecompressInvertsCompress := by
  intro z s t u hcfg _ hsample hmin hmax hexec herr hlegal husample hlen hroom hbytes hfits
  obtain ⟨src, built, hc⟩ := exists_compressedAs hcfg hsample hmin hmax hexec herr
  have hu : HoldsArchive u t := ⟨hlegal, husample, hlen, hlen ▸ hroom, hlen ▸ hbytes⟩
  by_cases hwhole : packedOutput z (t.messageBits (s.ibufBytes 0 s.inLen.toNat)) =
      packBits (t.messageBits (s.ibufBytes 0 s.inLen.toNat))
  · obtain ⟨v, hv, hrest⟩ := hc.decompress hu hmin hfits hwhole
    exact ⟨v, hv, fun _ => hrest, fun hne => absurd hwhole hne⟩
  · obtain ⟨v, hv, habort⟩ := hc.decompress_dropped hu hmin hfits hwhole
    exact ⟨v, hv, fun h => absurd h hwhole, fun _ => habort⟩

end Sys2Proof.Machine
end

section
/-! SUPPORT. DECODE where it walks no bit of the input: the single symbol of a leaf root (R221), a total of 0 (R222), and symbols
to come with no packed byte (R223). -/

namespace Sys2Proof.Machine

/-- A DECODE whose pseudocode has run to its end finishes and leaves the tables and the host's side alone (R268). -/
theorem execDecode_of_ok {s u : State} (h : decodeBody s = .ok u) :
    exec .decode s = .next u.finish ∧ finished s u.finish ∧ sameTables s u.finish ∧ sameHostSide s u.finish := by
  have hexec : exec .decode s = .next u.finish := congrArg (fun r => Host.Outcome.next (settle r)) h
  exact ⟨hexec, finished_of_ok (decodeBody_reaches s) h,
    sameTables_of_exec hexec (by simp [commandParts]) (by simp [commandParts]) (by simp [commandParts]),
    (commandsLeaveHostSide _ s _ hexec).1⟩

/-! ### A leaf root -/

/-- Everything DECODE with a leaf root can end in, after the bytes `bs`: all copies written, or a full OBUF (R77, R221). -/
theorem emitRoot_post {s t : State} {bs : List Byte} (h : Appended s bs t) (hcfg : s.cfg.legal = true) (sym : Byte) (k : Nat) :
    Post (Overflowed s (bs ++ List.replicate k sym)) (Appended s (bs ++ List.replicate k sym)) (emitRoot sym k t) := by
  induction k generalizing bs t with
  | zero => rwa [List.replicate_zero, List.append_nil]
  | succ k ih =>
    rw [List.replicate_succ, List.append_cons]
    exact Post.bind ((h.emit_post hcfg sym).overflow_mono (List.prefix_append _ _)) fun u ⟨_, hu⟩ => ih hu.same

/-- The copies do not all fit after the bytes `bs`: OBUF fills, and no input is read. -/
theorem emitRoot_full {s t : State} {bs : List Byte} (h : Appended s bs t) (hcfg : s.cfg.legal = true) (sym : Byte) {k : Nat}
    (hover : s.cfg.obufSize - s.outPtr.toNat < bs.length + k) :
    ∃ e, emitRoot sym k t = .error e ∧ Overflowed s (bs ++ List.replicate k sym) e ∧ e.state.inPtr = t.inPtr := by
  have hpost := emitRoot_post h hcfg sym k
  have hwrites := emitRoot_writes sym k t
  match hrun : emitRoot sym k t with
  | .ok u =>
    rw [hrun] at hpost
    have hle := hpost.length_le
    rw [List.length_append, List.length_replicate] at hle
    omega
  | .error e =>
    rw [hrun] at hpost hwrites
    have hsame : Writes [.output, .walker] t e.state := hwrites
    exact ⟨e, rfl, hpost, hsame.inPtr_eq (by simp) (by simp)⟩

/-- DECODE with a leaf root that writes all copies of its symbol (R221). -/
theorem decodeBody_repeats {s : State} (hcfg : s.cfg.legal = true) (h : s.inputOk) (hv : s.treeValid = true)
    (hroot : (nodeAt s.tree.nodes s.tree.root).leaf = true) (htotal : s.ftTotal < 2 ^ 64)
    (hroom : s.ftTotal = 0 ∨ s.outPtr.toNat + s.ftTotal ≤ s.cfg.obufSize) :
    ∃ u, decodeBody s = .ok u ∧
      Appended s (List.replicate s.ftTotal (nodeAt s.tree.nodes s.tree.root).sym) u ∧ u.inPtr = s.inPtr := by
  rw [decodeBody_eq_emitRoot h hv hroot htotal]
  exact emitRoot_appends hcfg _ s.ftTotal (Appended.nil s).same (by rwa [List.length_nil, Nat.zero_add])

/-- DECODE with a leaf root that finds OBUF full before the last copy (R77, R221). -/
theorem decodeBody_repeats_full {s : State} (hcfg : s.cfg.legal = true) (h : s.inputOk) (hv : s.treeValid = true)
    (hroot : (nodeAt s.tree.nodes s.tree.root).leaf = true) (htotal : s.ftTotal < 2 ^ 64)
    (hover : s.cfg.obufSize - s.outPtr.toNat < s.ftTotal) :
    ∃ e, decodeBody s = .error e ∧
      Overflowed s (List.replicate s.ftTotal (nodeAt s.tree.nodes s.tree.root).sym) e ∧ e.state.inPtr = s.inPtr := by
  rw [decodeBody_eq_emitRoot h hv hroot htotal]
  exact emitRoot_full (Appended.nil s).same hcfg _ (by rwa [List.length_nil, Nat.zero_add])

/-- Settles O37: the copies are written whole when they fit, and up to the end of OBUF when they do not. -/
theorem decodeRepeatsSingleSymbol : Obligations.DecodeRepeatsSingleSymbol := by
  intro s hcfg h hv hroot hmax
  have htotal : s.ftTotal < 2 ^ 64 := by omega
  refine ⟨fun hroom => ?_, fun hpos hover => ?_⟩
  · obtain ⟨u, hbody, happ, hptr⟩ := decodeBody_repeats hcfg h hv hroot htotal hroom
    obtain ⟨hexec, hfin, htables, hside⟩ := execDecode_of_ok hbody
    have hbytes := happ.finish.obufBytes
    have hout := happ.finish.outPtr_toNat hcfg
    rw [List.length_replicate] at hbytes hout
    exact ⟨_, hexec, hfin, hptr, hout, hbytes, htables, hside⟩
  · obtain ⟨e, hbody, hfull, hptr⟩ := decodeBody_repeats_full hcfg h hv hroot htotal (by omega)
    obtain ⟨t, hexec, habort, hptr', hread, hbytes, hout, -⟩ := decode_aborted hcfg hbody hfull.appended
    rw [hfull.cause, hfull.info, ← hptr'] at habort
    rw [List.take_replicate, Nat.min_eq_left (by omega), List.length_replicate] at hbytes hout
    exact ⟨t, hexec, habort, hread.trans hptr, hout, hbytes⟩

/-! ### No symbol, and no input -/

/-- The loop of DECODE starts with symbols missing exactly when the total is not 0. -/
theorem walkStart_missing_iff {s : State} (htotal : s.ftTotal < 2 ^ 64) :
    s.walkStart.walk.emitted < s.walkStart.walk.total ↔ 0 < s.ftTotal :=
  (Walking.start s).emitted_lt_iff htotal (Nat.zero_le _)

/-- The loop of DECODE fetches nothing when no symbol is missing (R222). -/
theorem decodeLoop_of_complete (k : Nat) {t : State} (h : ¬t.walk.emitted < t.walk.total) : decodeLoop k t = .ok t := by
  cases k with
  | zero => exact if_neg h
  | succ k => exact if_neg h

/-- DECODE of a total of 0 changes the walk state only (R222). -/
theorem decodeBody_of_nothing {s : State} (h : s.inputOk) (hv : s.treeValid = true) (hzero : s.ftTotal = 0) :
    ∃ walk, decodeBody s = .ok { s with walk := walk } := by
  have htotal : s.ftTotal < 2 ^ 64 := by omega
  cases hroot : (nodeAt s.tree.nodes s.tree.root).leaf with
  | true =>
    rw [decodeBody_eq_emitRoot h hv hroot htotal, hzero]
    exact ⟨_, rfl⟩
  | false =>
    rw [decodeBody_eq_loop h hv hroot]
    exact ⟨_, decodeLoop_of_complete _ (by rw [walkStart_missing_iff htotal]; omega)⟩

/-- Settles O38: no part of the state but the walk changes before the completion step. -/
theorem decodeOfNothingFinishes : Obligations.DecodeOfNothingFinishes := by
  intro s h hv hzero
  obtain ⟨walk, hbody⟩ := decodeBody_of_nothing h hv hzero
  obtain ⟨hexec, hfin, htables, hside⟩ := execDecode_of_ok hbody
  exact ⟨_, hexec, hfin, ⟨rfl, fun _ => rfl⟩, rfl, htables, hside⟩

/-- DECODE of symbols to come, with an internal root and no packed byte (R223). -/
theorem decodeBody_of_no_input {s : State} (h : s.inputOk) (hv : s.treeValid = true)
    (hroot : (nodeAt s.tree.nodes s.tree.root).leaf = false) (hpos : s.ftTotal ≠ 0) (htotal : s.ftTotal < 2 ^ 64)
    (hend : s.inPtr = s.inLen) : decodeBody s = .error ⟨.idStreamTrunc, 0, s.walkStart⟩ := by
  have hleft : s.inputLeft = 0 := by rw [State.inputLeft, hend, Nat.sub_self]
  rw [decodeBody_eq_loop h hv hroot, hleft]
  exact if_pos ((walkStart_missing_iff htotal).mpr (Nat.pos_of_ne_zero hpos))

/-- Settles O39: the first turn of the loop finds the input at its end. -/
theorem decodeOfNoInputIsTruncated : Obligations.DecodeOfNoInputIsTruncated := by
  intro s h hv hroot hpos hmax hend
  have hbody := decodeBody_of_no_input h hv hroot hpos (by omega) hend
  have habort := aborted_of_error (decodeBody_reaches s) hbody
  have hexec : exec .decode s = .next (settle (decodeBody s)) := rfl
  rw [hbody] at hexec habort
  exact ⟨_, hexec, habort, ⟨rfl, fun _ => rfl⟩, rfl⟩

end Sys2Proof.Machine
end

section
/-! SUPPORT. NOP (R241), and COMPRESS as a function of its parameters and its input (R244): its archive, how it ends when the
archive does or does not fit OBUF, and the inputs it refuses. -/

namespace Sys2Proof.Machine

/-! ### NOP -/

/-- Settles O17: NOP is the completion step, which leaves everything else as it is. -/
theorem nopOnlyFinishes : Obligations.NopOnlyFinishes := by
  intro s
  have hexec : exec .nop s = .next s.finish := rfl
  exact ⟨_, hexec, finished_of_reaches .refl, (commandsLeaveHostSide _ s _ hexec).1,
    sameTables_of_exec hexec (by simp [commandParts]) (by simp [commandParts]) (by simp [commandParts]),
    exec_sameOutput hexec rfl, rfl⟩

/-! ### The archive of an input -/

/-- The archive of a message under the table and the codes of `u`: the header and the packed codes (R120, R128). -/
def State.archive (u : State) (z : Bool) (msg : List Byte) : List Byte :=
  u.headerBytes ++ packedOutput z (u.messageBits msg)

/-- The header depends on the entries of the table alone. -/
theorem SameEntries.headerBytes_eq {s t : State} (h : SameEntries s t) : s.headerBytes = t.headerBytes := by
  have hentries : t.presentSyms.flatMap s.entryBytes = t.presentSyms.flatMap t.entryBytes :=
    List.flatMap_congr fun sym hsym => by rw [State.entryBytes, State.entryBytes, h.ftAt_eq hsym]
  rw [State.headerBytes_eq, State.headerBytes_eq, h.nsym_eq, h.presentSyms_eq, hentries]

/-- A BUILD that ends well stores the tree of the table (R181). -/
theorem builtTree_of_ok {s u : State} (h : buildBody s = .ok u) : u.tree = s.builtTree := by
  by_cases hempty : s.nsym = 0
  · exact nomatch (buildBody_of_empty hempty).symm.trans h
  by_cases hover : 2 ^ 64 - 1 < s.ftTotal
  · exact nomatch (buildBody_of_overflow hempty hover).symm.trans h
  obtain ⟨⟨q, hbuild⟩, -⟩ := buildBody_ok (Nat.one_le_iff_ne_zero.mpr hempty) (Nat.le_of_not_lt hover)
  obtain rfl := Except.ok.inj (hbuild.symm.trans h)
  rfl

/-- The tree of `u` is the one BUILD makes of its table, in some arena. -/
def HoldsBuiltTree (u : State) : Prop := ∃ src : State, src.ft = u.ft ∧ u.tree = src.builtTree

/-- In COMPRESS the tree still is that of the table after CODEGEN (R242). -/
theorem holdsBuiltTree_of_build_codegen {u1 u2 u3 : State} (h2 : buildBody u1 = .ok u2) (h3 : codegenBody u2 = .ok u3) :
    HoldsBuiltTree u3 := by
  obtain ⟨hft2, hft3, htree3⟩ := table_of_build_codegen h2 h3
  exact ⟨u1, (hft3.trans hft2).symm, htree3.trans (builtTree_of_ok h2)⟩

/-- The codes of the trees BUILD makes of tables with the same entries, in whatever arenas (R183). -/
theorem HoldsBuiltTree.treeCode_eq {u u' : State} (hb : HoldsBuiltTree u) (hb' : HoldsBuiltTree u') (h : SameEntries u u')
    (htree : u.treeOk) (sym : Byte) : u'.treeCode sym = u.treeCode sym := by
  obtain ⟨src, hft, hbuilt⟩ := hb
  obtain ⟨src', hft', hbuilt'⟩ := hb'
  have hsrc : SameEntries src src' := fun sym => by
    rw [State.ftAt_congr hft, State.ftAt_congr hft']
    exact h sym
  obtain ⟨-, hsame, hagree⟩ := hsrc.builtTree
  obtain ⟨-, hcount, -⟩ := id htree
  rw [← hsame, ← hbuilt, ← hbuilt', hcount] at hagree
  exact treeCode_agree htree h.nsym_eq.symm hagree sym

/-- Equal inputs have equal archives, whatever the two states held (R244). -/
theorem CodedInput.archive_eq {s s' u u' : State} {bytes : List Byte} (hu : CodedInput s bytes u)
    (hu' : CodedInput s' bytes u') (hb : HoldsBuiltTree u) (hb' : HoldsBuiltTree u') (z : Bool) :
    u.archive z bytes = u'.archive z bytes := by
  have hsame : SameEntries u u' := fun sym => by
    rw [hu.table, hu'.table]
    exact ⟨rfl, fun _ => rfl⟩
  obtain ⟨htree, -⟩ := hu.tables.1 hu.treeValid
  obtain ⟨htree', -⟩ := hu'.tables.1 hu'.treeValid
  obtain ⟨-, hcodes⟩ := hu.tables.2 hu.codeValid
  obtain ⟨-, hcodes'⟩ := hu'.tables.2 hu'.codeValid
  have hbits : u.messageBits bytes = u'.messageBits bytes := List.flatMap_congr fun b hmem => by
    have hpresent : (countEntry bytes b).present = true := List.contains_iff_mem.mpr hmem
    rw [← treeCode_eq_code htree hcodes (by rwa [hu.table]), ← treeCode_eq_code htree' hcodes' (by rwa [hu'.table]),
      hb.treeCode_eq hb' hsame htree]
  rw [State.archive, State.archive, hsame.headerBytes_eq, hbits]

/-! ### Writing the archive -/

/-- Everything a sequence of emissions can end in: all of it written, or a full OBUF (R77). -/
theorem emitMany_post {s : State} (hcfg : s.cfg.legal = true) (bs : List Byte) :
    Post (Overflowed s bs) (fun u => u = s.wrote bs ∧ Appended s bs u) (State.emitMany bs s) := by
  have hsize := State.obufSize_le hcfg
  by_cases hroom : s.outPtr.toNat + bs.length ≤ s.cfg.obufSize
  · rw [State.emitMany_ok bs s hroom hsize]
    exact ⟨rfl, .of_wrote (.inr hroom)⟩
  by_cases hne : bs = []
  · subst hne
    exact ⟨s.wrote_nil.symm, .nil s⟩
  · have hpos := List.length_pos_of_ne_nil hne
    rw [State.emitMany_full bs s (Nat.lt_of_not_le hroom) hne hsize]
    refine ⟨rfl, rfl, by omega, .of_wrote ?_⟩
    rw [← List.length_eq_zero_iff, List.length_take]
    omega

/-- An overflow after the bytes `bs` is one of the whole output. -/
theorem Overflowed.after_appended {s t : State} {bs out : List Byte} {e : Raise} (he : Overflowed t out e)
    (h : Appended s bs t) (hcfg : s.cfg.legal = true) : Overflowed s (bs ++ out) e := by
  have hptr := h.outPtr_toNat hcfg
  have hshort := he.short
  have hroom : s.cfg.obufSize - s.outPtr.toNat = bs.length + (t.cfg.obufSize - t.outPtr.toNat) := by
    rw [hptr, h.cfg]
    rcases h.fits with rfl | hfits
    · simp
    · omega
  refine ⟨he.cause, he.info, by rw [hroom, List.length_append]; omega, ?_⟩
  rw [hroom, List.take_length_add_append]
  exact h.trans hcfg he.appended

/-- WRHDR and ENCODE in COMPRESS, once the input is coded: they write its archive, or as many bytes of it as fit (R242). -/
theorem CodedInput.writes_archive {s u : State} (hu : CodedInput s (s.ibufBytes 0 s.inLen.toNat) u) (z : Bool)
    (hcfg : s.cfg.legal = true) (hsample : s.inEnSample = true) (hmax : s.inLen.toNat ≤ s.cfg.ibufSize) :
    Post (Overflowed u (u.archive z (s.ibufBytes 0 s.inLen.toNat)))
      (Appended u (u.archive z (s.ibufBytes 0 s.inLen.toNat)))
      (wrhdrBody u >>= fun u4 => encodeBody z u4.restarted) := by
  rw [← hu.cfg] at hcfg hmax
  rw [wrhdrBody_eq_emitMany]
  refine Post.bind ((emitMany_post hcfg u.headerBytes).overflow_mono (List.prefix_append _ _)) ?_
  rintro _ ⟨rfl, hheader⟩
  have happ : Appended u u.headerBytes (u.wrote u.headerBytes).restarted := hheader.same
  have hin : (u.wrote u.headerBytes).restarted.inputOk :=
    ⟨hu.inEnSample.trans hsample, (congrArg BitVec.toNat hu.inLen).trans_le hmax, Nat.zero_le _⟩
  have hpost := encodeBody_packs (s := (u.wrote u.headerBytes).restarted) z hcfg hin hu.codeValid fun b hb =>
    hu.has (hu.inputBytes u.headerBytes ▸ hb)
  rw [hu.inputBytes] at hpost
  exact hpost.imp (fun _ he => he.after_appended happ hcfg) fun _ ⟨hout, _⟩ => happ.trans hcfg hout

/-! ### How COMPRESS ends -/

/-- `t` is the end of a command without an earlier error whose whole output, in an OBUF of `size` bytes, would be `out`: all of
it, or an error and the bytes that fit. -/
structure EndsWithOutput (size : Nat) (out : List Byte) (t : State) : Prop where
  err : t.err = decide (size < out.length)
  bytes : t.obufBytes 0 t.outPtr.toNat = out.take size

/-- A body that writes its whole output from offset 0 on, or overflows, and the completion step. -/
theorem Post.endsWithOutput {u : State} {out : List Byte} {r : Run State} (hpost : Post (Overflowed u out) (Appended u out) r)
    (hcfg : u.cfg.legal = true) (hstart : u.outPtr.toNat = 0) (hreach : RunReaches id u r) (herr : u.err = false) :
    EndsWithOutput u.cfg.obufSize out (settle r) := by
  cases r with
  | ok v =>
    have happ : Appended u out v := hpost
    obtain ⟨-, -, hkept, -⟩ := finished_of_ok hreach rfl
    have hfits : out.length ≤ u.cfg.obufSize := by
      rcases happ.fits with rfl | hfits
      · exact Nat.zero_le _
      · omega
    have hbytes := happ.finish.obufBytes
    have hptr := happ.finish.outPtr_toNat hcfg
    rw [hstart] at hbytes hptr
    rw [Nat.zero_add] at hptr
    refine ⟨(hkept.trans herr).trans (decide_eq_false (Nat.not_lt.mpr hfits)).symm, ?_⟩
    rw [List.take_of_length_le hfits, settle_ok, hptr, hbytes]
  | error e =>
    have hfull : Overflowed u out e := hpost
    have hshort := hfull.short
    have happ := hfull.appended.raise e.cause e.info
    have hbytes := happ.obufBytes
    have hptr := happ.outPtr_toNat hcfg
    rw [hstart, Nat.sub_zero] at hbytes hptr hshort
    rw [Nat.zero_add] at hptr
    exact ⟨(decide_eq_true hshort).symm, (congrArg _ hptr).trans hbytes⟩

theorem liftRun_bind {α β : Type} (r : Run α) (f : α → Run β) :
    (liftRun r >>= fun a => liftRun (f a)) = liftRun (r >>= f) := by
  cases r <;> rfl

/-- COMPRESS of a non-empty input that passes the start check ends with its archive (R242). -/
theorem compress_endsWithArchive {z : Bool} {s t : State} (hcfg : s.cfg.legal = true) (hsample : s.inEnSample = true)
    (hmin : 1 ≤ s.inLen.toNat) (hmax : s.inLen.toNat ≤ s.cfg.ibufSize) (herr : s.err = false)
    (hexec : exec (.compress z) s = .next t) :
    ∃ u, CodedInput s (s.ibufBytes 0 s.inLen.toNat) u ∧ HoldsBuiltTree u ∧
      EndsWithOutput s.cfg.obufSize (u.archive z (s.ibufBytes 0 s.inLen.toNat)) t := by
  obtain ⟨u1, u2, u3, h1, h2, h3, hu⟩ := compress_codes hsample hmin hmax
  have hbody : compressBody z s = liftRun (wrhdrBody u3 >>= fun u4 => encodeBody z u4.restarted) := by
    rw [compressBody, h1]
    change (liftRun (buildBody u1) >>= _) = _
    rw [h2]
    change (codegenBody u2 >>= _) = _
    rw [h3]
    exact liftRun_bind _ _
  have hreach : RunReaches id u3 (wrhdrBody u3 >>= fun u4 => encodeBody z u4.restarted) :=
    (wrhdrBody_reaches u3).bind fun u4 => .after (.inPtr u4 0) (encodeBody_reaches z _)
  have hend := (hu.writes_archive z hcfg hsample hmax).endsWithOutput (hu.cfg ▸ hcfg) hu.outPtr hreach
    ((congrArg State.err hu.rest).trans herr)
  rw [hu.cfg] at hend
  replace hexec : settleStop (compressBody z s) = .next t := hexec
  rw [hbody, settleStop_liftRun] at hexec
  exact ⟨u3, hu, holdsBuiltTree_of_build_codegen h2 h3, Host.Outcome.next.inj hexec ▸ hend⟩

/-- An error of the start check ends COMPRESS (R240, R263). -/
theorem exec_compress_of_check_error {z : Bool} {s : State} {e : Raise} (h : s.rewind.inputChecks = .error e) :
    exec (.compress z) s = .next (e.state.raise e.cause e.info) := by
  have hbody : compressBody z s = .error (.raised e) := by
    rw [compressBody, countBody, h]
    rfl
  exact congrArg settleStop hbody

/-- COMPRESS of an input that is empty or does not pass the start check ends with an error and no output (R242, R263). -/
theorem compress_of_bad_input {z : Bool} {s t : State}
    (h : ¬(s.inEnSample = true ∧ 1 ≤ s.inLen.toNat ∧ s.inLen.toNat ≤ s.cfg.ibufSize))
    (hexec : exec (.compress z) s = .next t) : t.err = true ∧ t.outPtr = 0#32 := by
  obtain ⟨⟨hsample, hmax, -⟩, -⟩ | ⟨-, he⟩ | ⟨-, -, he⟩ := s.rewind.inputChecks_cases
  · have hempty : s.inLen = 0#32 := BitVec.eq_of_toNat_eq
      (Nat.lt_one_iff.mp (Nat.lt_of_not_le fun hmin => h ⟨hsample, hmin, hmax⟩))
    obtain ⟨t', ht', ⟨-, -, herr, -⟩, hptr, -⟩ := compressRefusesEmptyInput z s hsample hempty
    obtain rfl := Host.Outcome.next.inj (ht'.symm.trans hexec)
    exact ⟨herr, hptr⟩
  · obtain rfl := Host.Outcome.next.inj ((exec_compress_of_check_error he).symm.trans hexec)
    exact ⟨rfl, rfl⟩
  · obtain rfl := Host.Outcome.next.inj ((exec_compress_of_check_error he).symm.trans hexec)
    exact ⟨rfl, rfl⟩

/-- Equal output from offset 0 on has equal length. -/
theorem outPtr_eq_of_obufBytes_eq {t t' : State} (h : t.obufBytes 0 t.outPtr.toNat = t'.obufBytes 0 t'.outPtr.toNat) :
    t.outPtr = t'.outPtr :=
  BitVec.eq_of_toNat_eq (by simpa [State.obufBytes] using congrArg List.length h)

/-- Settles O47: an input that COMPRESS refuses leaves no output, and any other ends in its archive, which is the same from both
states. -/
theorem compressIsDeterministic : Obligations.CompressIsDeterministic := by
  intro z s s' t t' hcfg hlegal hsample hlen hbytes herr herr' hexec hexec'
  by_cases hgood : s.inEnSample = true ∧ 1 ≤ s.inLen.toNat ∧ s.inLen.toNat ≤ s.cfg.ibufSize
  · obtain ⟨hs, hmin, hmax⟩ := hgood
    obtain ⟨u, hu, hbuilt, hend⟩ := compress_endsWithArchive hlegal hs hmin hmax herr hexec
    rw [hcfg] at hlegal hmax
    rw [hsample] at hs
    rw [hlen] at hmin hmax
    obtain ⟨u', hu', hbuilt', hend'⟩ := compress_endsWithArchive hlegal hs hmin hmax herr' hexec'
    rw [← hlen, ← hbytes] at hu' hend'
    rw [← hcfg, ← hu.archive_eq hu' hbuilt hbuilt' z] at hend'
    have hout := hend.bytes.trans hend'.bytes.symm
    have hptr := outPtr_eq_of_obufBytes_eq hout
    exact ⟨hend.err.trans hend'.err.symm, hptr, hout.trans (by rw [hptr])⟩
  · obtain ⟨he, hptr⟩ := compress_of_bad_input hgood hexec
    rw [hsample, hlen, hcfg] at hgood
    obtain ⟨he', hptr'⟩ := compress_of_bad_input hgood hexec'
    rw [he, he', hptr, hptr']
    exact ⟨rfl, rfl, rfl⟩

end Sys2Proof.Machine
end

section
/-! SUPPORT. The acceptance of a command word (R264) and the two ends of a command (R265, R268). -/

namespace Sys2Proof.Machine

/-! ### The end of a command -/

/-- A command that raises after elementary writes aborts: none of them touches DONE (R265). -/
theorem aborted_of_reaches {s u : State} (h : Reaches s u) (c : Cause) (info : Word) : aborted s (u.raise c info) c info :=
  aborted_of_error (e := ⟨c, info, u⟩) (RunReaches.error (out := id) h) rfl

/-- Settles O11: a command is elementary writes, which leave STATUS and the error record alone, and one completion step. -/
theorem commandFinishesOrAborts : Obligations.CommandFinishesOrAborts := by
  intro i s t h
  obtain ⟨u, hsu, rfl | ⟨c, info, rfl⟩⟩ := exec_completes h
  · exact .inl (finished_of_reaches hsu)
  · exact .inr ⟨c, info, aborted_of_reaches hsu c info⟩

/-! ### Acceptance -/

theorem State.accept_of_ok {s : State} {w : Word} {i : Instr} (h : decode w = .ok i) :
    s.accept w = (s.latch w).sampleInEn := by
  obtain ⟨_, -, he⟩ | ⟨_, herr, -⟩ := s.accept_cases w
  · exact he
  · exact nomatch h.symm.trans herr

theorem State.accept_of_illegal {s : State} {w : Word} (h : ∀ i, decode w ≠ .ok i) :
    s.accept w = (s.latch w).raise .cmdIllegal w := by
  obtain ⟨i, hi, -⟩ | ⟨_, -, he⟩ := s.accept_cases w
  · exact absurd hi (h i)
  · exact he

/-- Acceptance writes neither HERR, CTRL, a pointer, a table nor a buffer, whatever the word (R264). -/
theorem State.accept_frame (s : State) (w : Word) :
    (s.accept w).herr = s.herr ∧ (s.accept w).ctrl = s.ctrl ∧ (s.accept w).inLen = s.inLen ∧ (s.accept w).inPtr = s.inPtr ∧
      sameTables s (s.accept w) ∧ sameOutput s (s.accept w) ∧ ∀ k, (s.accept w).ibufAt k = s.ibufAt k := by
  obtain ⟨_, -, he⟩ | ⟨_, -, he⟩ := s.accept_cases w <;> rw [he] <;>
    exact ⟨rfl, rfl, rfl, rfl, ⟨rfl, rfl, rfl, fun _ => rfl, fun _ => rfl⟩, ⟨rfl, fun _ => rfl⟩, fun _ => rfl⟩

/-- With DONE and ERR clear there is no interrupt (R33). -/
theorem State.irq_eq_false {s : State} (hdone : s.done = false) (herr : s.err = false) : s.irq = false := by
  simp [State.irq, hdone, herr]

/-- Settles O48: the write is the acceptance of the word, which latches a legal one and raises CMD_ILLEGAL for any other. -/
theorem acceptanceLatchesCommand : Obligations.AcceptanceLatchesCommand := by
  rintro s _ w hb rfl
  rw [State.hostWrite_cmd hb]
  refine ⟨?_, fun hillegal => ?_, s.accept_frame w⟩
  · rintro ⟨i, hlegal⟩
    rw [State.accept_of_ok hlegal]
    exact ⟨rfl, rfl, rfl, rfl, rfl, rfl, rfl, State.irq_eq_false rfl rfl⟩
  · rw [State.accept_of_illegal hillegal]
    exact ⟨rfl, rfl, rfl, rfl, rfl, rfl⟩

end Sys2Proof.Machine
end

section
/-! SUPPORT. Host writes while a command runs (R310), and the completion of an accepted command (R318 to R320). -/

namespace Sys2Proof.Machine

/-! ### Host writes while a command runs -/

theorem State.unlessBusy_of_busy {s : State} (h : s.busy = true) (s' : State) : s.unlessBusy s' = s.hostError := if_pos h

/-- STATUS and CTRL are the only registers a host write changes while BUSY = 1; the rest are refused or read-only (R53, R310). -/
theorem State.writeReg_eq_hostError_of_busy {s : State} (hb : s.busy = true) (w : Word) {r : Reg} (hstatus : r ≠ .status)
    (hctrl : r ≠ .ctrl) : s.writeReg w r = s.hostError := by
  cases r with
  | cmd | inLen | inPtr | outPtr | ftSel | ftPresent | ftCntLo | ftCntHi | nodeSel | codeSel | codeWsel =>
    exact State.unlessBusy_of_busy hb _
  | status => exact absurd rfl hstatus
  | ctrl => exact absurd rfl hctrl
  | err | errInfo | ftNsym | nodeInfo | nodeLinks | nodeWLo | nodeWHi | treeInfo | codeInfo | codeWord => rfl

/-- Everything a host write does while BUSY = 1: it sets HERR, unless it reaches STATUS or CTRL. -/
theorem State.hostWrite_cases_of_busy {s : State} (hb : s.busy = true) (addr : Word) (size : Size) (w : Word) :
    s.hostWrite addr size w = s.hostError ∨
      (s.target addr size = some (.reg .status) ∧ s.hostWrite addr size w = s.writeStatus w) ∨
      (s.target addr size = some (.reg .ctrl) ∧ s.hostWrite addr size w = s.writeCtrl w) := by
  rw [State.hostWrite]
  match s.target addr size with
  | none => exact .inl rfl
  | some (.ibuf i) => exact .inl (State.unlessBusy_of_busy hb _)
  | some (.obuf i) => exact .inl (State.unlessBusy_of_busy hb _)
  | some (.reg r) =>
    by_cases hstatus : r = .status
    · exact .inr (.inl ⟨congrArg _ (congrArg _ hstatus), congrArg (s.writeReg w) hstatus⟩)
    by_cases hctrl : r = .ctrl
    · exact .inr (.inr ⟨congrArg _ (congrArg _ hctrl), congrArg (s.writeReg w) hctrl⟩)
    exact .inl (State.writeReg_eq_hostError_of_busy hb w hstatus hctrl)

/-- The registers lie below 0x100 (R70). -/
theorem State.lt_of_target_reg {s : State} {addr : Word} {size : Size} {r : Reg} (h : s.target addr size = some (.reg r)) :
    addr.toNat < 0x100 := by
  by_contra hlt
  unfold State.target at h
  simp only [hlt, if_false] at h
  split_ifs at h <;> simp at h

/-- The registers R310 names: a host write of one is refused while BUSY = 1. -/
def refusedRegs : List Reg :=
  [.cmd, .inLen, .inPtr, .outPtr, .ftSel, .ftPresent, .ftCntLo, .ftCntHi, .nodeSel, .codeSel, .codeWsel]

theorem ne_of_mem_refusedRegs : ∀ r ∈ refusedRegs, r ≠ .status ∧ r ≠ .ctrl := by decide

/-- Settles O50: a write that reaches neither STATUS nor CTRL only sets HERR, and a buffer address reaches no register. -/
theorem busyWritesAreRefused : Obligations.BusyWritesAreRefused := by
  intro s w hb
  refine ⟨fun a ha => ?_, fun addr size haddr => ?_, s.hostWrite_reg w .status, s.hostWrite_reg w .ctrl⟩
  · obtain ⟨r, hr, rfl⟩ := List.mem_map.mp (show a ∈ refusedRegs.map fun r => BitVec.ofNat 32 r.offset from ha)
    obtain ⟨hstatus, hctrl⟩ := ne_of_mem_refusedRegs r hr
    exact (s.hostWrite_reg w r).trans (State.writeReg_eq_hostError_of_busy hb w hstatus hctrl)
  · obtain he | ⟨htarget, -⟩ | ⟨htarget, -⟩ := State.hostWrite_cases_of_busy hb addr size w
    · exact he
    all_goals
      have := State.lt_of_target_reg htarget
      omega

/-! ### The host's turns before the completion step -/

/-- `t` has the command of `s` latched still, RST at the same level, and as many host turns left. -/
def State.StillRuns (s t : State) : Prop := t.seq = s.seq ∧ t.rst = s.rst ∧ t.host.turns = s.host.turns

theorem State.hostWrite_stillRuns {s : State} (hb : s.busy = true) (addr : Word) (size : Size) (w : Word) :
    s.StillRuns (s.hostWrite addr size w) := by
  obtain he | ⟨-, he⟩ | ⟨-, he⟩ := State.hostWrite_cases_of_busy hb addr size w <;> rw [he] <;> exact ⟨rfl, rfl, rfl⟩

theorem State.hostRead_stillRuns (s : State) (addr : Word) (size : Size) : s.StillRuns (s.hostRead addr size) := by
  obtain ⟨v, n, herr, hok, -⟩ := s.hostRead_effect addr size
  by_cases h : erroneousAccess s addr size
  · rw [(herr h).2]
    exact ⟨rfl, rfl, rfl⟩
  · rw [hok h]
    exact ⟨rfl, rfl, rfl⟩

theorem State.waitTurn_stillRuns (s : State) : s.StillRuns s.waitTurn := by
  have hread := s.hostRead_stillRuns 0x00000004 .word
  unfold State.waitTurn
  dsimp only
  split <;> exact hread

/-- A host operation while a command runs asserts RST, which leaves the block IDLE (R301), or lets the command run on. -/
theorem State.perform_of_busy {s : State} (hrst : s.rst = false) (hb : s.busy = true) (op : HostOp) :
    (s.perform op).busy = false ∨ s.StillRuns (s.perform op) := by
  have hreleased : ¬s.rst = true := by simp [hrst]
  cases op with
  | rst level =>
    cases level with
    | true => exact .inl rfl
    | false => exact .inr ⟨rfl, hrst.symm, rfl⟩
  | read addr size =>
    rw [State.perform, if_neg hreleased]
    exact .inr (s.hostRead_stillRuns addr size)
  | write addr size data =>
    rw [State.perform, if_neg hreleased]
    exact .inr (State.hostWrite_stillRuns hb addr size data)
  | wait =>
    rw [State.perform, if_neg hreleased]
    exact .inr s.waitTurn_stillRuns

/-- A host turn while a command runs ends the command, by RST, or uses up one of the turns drawn at its acceptance. -/
theorem State.hostTurn_of_busy {s : State} (hrst : s.rst = false) (hb : s.busy = true) (hm : s.hostMoves = true) :
    s.hostTurn.busy = false ∨
      (s.hostTurn.rst = false ∧ s.hostTurn.busy = true ∧ s.hostTurn.host.turns + 1 = s.host.turns) := by
  have hleft : 0 < s.host.turns := by
    by_contra hnone
    simp [State.hostMoves, hrst, hb, hnone] at hm
  match hp : s.host.pending with
  | [] => simp [State.hostMoves, hp] at hm
  | op :: rest =>
    rw [State.hostTurn, hp]
    dsimp only
    obtain hidle | ⟨hseq, hr, hturns⟩ := State.perform_of_busy
      (s := { s with host := { s.host with pending := rest, turns := s.host.turns - 1 } }) hrst hb op
    · exact .inl hidle
    · refine .inr ⟨hr.trans hrst, ?_, ?_⟩
      · rw [State.busy_iff, hseq]
        exact s.busy_iff.mp hb
      · rw [hturns]
        exact Nat.sub_add_cancel hleft

/-! ### Completion -/

theorem exec_not_busy {i : Instr} {s t : State} (h : exec i s = .next t) : t.busy = false := by
  obtain ⟨u, -, rfl | ⟨c, info, rfl⟩⟩ := exec_completes h
  · exact u.busy_finish
  · exact u.busy_raise c info

/-- A step while a command runs ends it, or is one of the host turns drawn at its acceptance (R318). -/
theorem step_of_busy {s t : State} (hrst : s.rst = false) (hb : s.busy = true) (ht : step s = .next t) :
    t.busy = false ∨ (t.rst = false ∧ t.busy = true ∧ t.host.turns + 1 = s.host.turns) := by
  obtain ⟨hm, he⟩ | ⟨-, hstill, -⟩ | ⟨-, -, w, p, -, ⟨i, -, he⟩ | ⟨e, -, he⟩⟩ := step_cases s
  · cases he.symm.trans ht
    exact State.hostTurn_of_busy hrst hb hm
  · obtain hr | hidle := hstill
    · exact nomatch hr.symm.trans hrst
    · exact absurd hidle (s.busy_iff.mp hb)
  · exact .inl (exec_not_busy (he.symm.trans ht))
  · cases he.symm.trans ht
    exact .inl (s.busy_raise .cmdIllegal w)

theorem run_succ_of_step {M : Host.Core} {s t : M.State} (h : M.step s = .next t) (k : Nat) :
    M.run (k + 1) s = M.run k t := by
  rw [Host.Core.run, h]

/-- Settles O12: by induction on the host turns that are left; a step that leaves the command running uses up one of them. -/
theorem acceptedCommandCompletes : Obligations.AcceptedCommandCompletes := by
  intro s
  induction hn : s.host.turns using Nat.strong_induction_on generalizing s with
  | h n ih =>
    intro htables hrst hb
    obtain ⟨t, ht⟩ := stepNeverStops s htables
    have hrun : ∀ k, core.run (k + 1) s = core.run k t := run_succ_of_step (M := core) ht
    obtain hidle | ⟨hrst', hb', hturns⟩ := step_of_busy hrst hb ht
    · exact ⟨1, t, Nat.le_add_left 1 n, hrun 0, hidle⟩
    · obtain ⟨k, u, hk, hku, hu⟩ :=
        ih t.host.turns (by omega) t rfl (stepKeepsTableInvariant s t htables ht) hrst' hb'
      exact ⟨k + 1, u, by omega, (hrun k).trans hku, hu⟩

end Sys2Proof.Machine
end
